-- ==== Sys2Proof/Word.lean ====
section
/-! DEFINITION. The word types of the core: 00_scope.md R19 (`uN` is an unsigned N-bit value). -/

namespace Sys2Proof

/-- One byte: `op`, `d1`, `d2` of a command word, or one serial transfer (R91, R106). -/
abbrev Byte := BitVec 8
/-- A 7-bit MIDI data value: pitch, velocity, controller number or value (R94). -/
abbrev Data7 := BitVec 7
/-- The channel nibble `op[3:0]`, which is the MIDI channel minus one (R93). -/
abbrev ChannelNibble := BitVec 4
/-- A 12-bit DAC code (R71, R103). -/
abbrev Code := BitVec 12
/-- The 16-bit DAC command word (R103). -/
abbrev DacWord := BitVec 16
/-- The 24-bit command word (R91). -/
abbrev CommandWord := BitVec 24
/-- A timestamp in milliseconds, modulo 2^32 (R92). -/
abbrev Timestamp := BitVec 32

end Sys2Proof
end

