-- ==== Sys2Proof/Config.lean ====
section
/-! DEFINITION. The implementation parameters of 00_scope.md R16: the record the model takes as an argument, the free
values behind its OPEN entries, and the record this core has at reset. -/

namespace Sys2Proof

/-- What a fire does to a PULSE line that is already high (R174, U1).  `extend` is the core's policy.  `glitch` is the
variant R174 keeps the parameter for: a zero-length low between the two pulses, with the same end state (log 14). -/
inductive Retrigger where
  | extend
  | glitch
  deriving DecidableEq, Repr

/-- The parameters of R16 that a rule of the model reads.  Plain data; fixed for the life of the core (R49). -/
structure Params where
  /-- The Voltage Table, indices 0..120 (R71). -/
  vt : Vector Code 121
  /-- `VEL_TO_CODE`, a total function 0..127 -> 0..4095 (R124). -/
  velToCode : Vector Code 128
  /-- `CC_TO_CODE`, a total function 0..127 -> 0..4095 (R124). -/
  ccToCode : Vector Code 128
  /-- `CC_NUMBER`, the designated controller (R149). -/
  ccNumber : Data7
  /-- `CC_CHANNEL`: `none` is ANY, `some c` one MIDI channel, as its nibble (R149, R93). -/
  ccChannel : Option ChannelNibble
  /-- `COUNT_MAX`, where the note count saturates (R34). -/
  countMax : BitVec 8
  /-- `N_CLK`, the divided clock outputs (R17). -/
  nClk : Nat
  /-- `HAS_LED`, the extra LED/visual clock channel (R17, R196). -/
  hasLed : Bool
  /-- `PRIMARY_RELEASE_ZEROES_SECONDARY` (R145). -/
  releaseZeroesSecondary : Bool
  /-- `RETRIGGER` (R174). -/
  retrigger : Retrigger
  deriving DecidableEq, Repr

/-- `N_CLK_TOTAL` is `N_CLK + (HAS_LED ? 1 : 0)` (R17). -/
def Params.nClkTotal (p : Params) : Nat := p.nClk + if p.hasLed then 1 else 0

/-- What R16 and R71 ask of the parameters: a non-decreasing Voltage Table, `N_CLK` in 1..16, and a count that can
reach 1 (the last is DEDUCED, log 4). -/
structure Params.Legal (p : Params) : Prop where
  vt_mono : ∀ i j : Fin 121, i ≤ j → p.vt[i].toNat ≤ p.vt[j].toNat
  nClk_pos : 1 ≤ p.nClk
  nClk_le : p.nClk ≤ 16
  countMax_pos : 1 ≤ p.countMax.toNat

/-- Free value: where the Voltage Table of this core comes from (OPEN, R16, D10; log 1). -/
opaque Config.freeVoltage : Nat → Code
/-- Free value: `VEL_TO_CODE` of this core (OPEN, R16, D9; log 1). -/
opaque Config.freeVelToCode : Nat → Code
/-- Free value: `CC_TO_CODE` of this core (OPEN, R16, D8; log 1). -/
opaque Config.freeCcToCode : Nat → Code
/-- Free value: `CC_NUMBER` of this core (OPEN, R16, D7; log 1). -/
opaque Config.freeCcNumber : Data7

/-- The greatest of `f 0 .. f n`.  A table is non-decreasing exactly when it is its own running maximum, so every
table R71 admits, and no other, is the running maximum of some `f`. -/
def Config.runningMax (f : Nat → Code) : Nat → Code
  | 0 => f 0
  | n + 1 => if (Config.runningMax f n).toNat ≤ (f (n + 1)).toNat then f (n + 1) else Config.runningMax f n

/-- The parameters of this core: free values where R16 says OPEN, the decided value everywhere else (log 1, log 3). -/
def Config.params : Params where
  vt := Vector.ofFn fun i => Config.runningMax Config.freeVoltage i.val
  velToCode := Vector.ofFn fun i => Config.freeVelToCode i.val
  ccToCode := Vector.ofFn fun i => Config.freeCcToCode i.val
  ccNumber := Config.freeCcNumber
  ccChannel := none
  countMax := 255#8
  nClk := 2
  hasLed := false
  releaseZeroesSecondary := true
  retrigger := .extend

end Sys2Proof
end

