-- ==== Sys2Proof/Syntax.lean ====
section
/-! DEFINITION. The commands of the core (30_encoding.md R95), one constructor per row of spec/opcode_table.json, the
command word with its timestamp (R90, R92), and the inputs the host delivers. -/

namespace Sys2Proof

/-- An instruction of the core is one command (R4).  `c` is the channel nibble, MIDI channel minus one (R93). -/
inductive Instr where
  /-- NOTE_OFF, R145 and R146. -/
  | noteOff (c : ChannelNibble) (pitch velocity : Data7)
  /-- NOTE_ON, R143 and R144. -/
  | noteOn (c : ChannelNibble) (pitch velocity : Data7)
  /-- CONTROL_CHANGE, R149. -/
  | controlChange (c : ChannelNibble) (controller value : Data7)
  /-- CLOCK, R175. -/
  | clock
  /-- START, R177. -/
  | start
  /-- CONTINUE, R178. -/
  | cont
  /-- STOP, R179. -/
  | stop
  /-- POLL, R190. -/
  | poll
  /-- SET_DIV, R181: clock channel `j`, requested index `r` read as two's complement (R97). -/
  | setDiv (j r : Byte)
  /-- GET_DIV, R195. -/
  | getDiv (j : Byte)
  deriving DecidableEq, Repr

/-- One command as it reaches the core: a command word and the timestamp beside it (R90, R92). -/
structure Command where
  word : CommandWord
  stamp : Timestamp
  deriving DecidableEq, Repr

/-- What the host may do at a command boundary: deliver a command (R5) or reset the core (R241; log 7). -/
inductive Input where
  | command (c : Command)
  | reset
  deriving DecidableEq, Repr

end Sys2Proof
end

