-- ==== Sys2Proof/WellFormed.lean ====
section
/-! DEFINITION. The value check on commands: 30_encoding.md R96.  Every other bound of R93 to R97 is in the operand
types. -/

namespace Sys2Proof

/-- With `n` clock channels, SET_DIV and GET_DIV need `d1 < N_CLK_TOTAL`; no other row has a value check (R96). -/
def Instr.wf (n : Nat) : Instr → Bool
  | .noteOff _ _ _ => true
  | .noteOn _ _ _ => true
  | .controlChange _ _ _ => true
  | .clock => true
  | .start => true
  | .cont => true
  | .stop => true
  | .poll => true
  | .setDiv j _ => decide (j.toNat < n)
  | .getDiv j => decide (j.toNat < n)

end Sys2Proof
end

