-- ==== Sys2Proof/Decode.lean ====
section
/-! DEFINITION. Decoding a command word, total on all 2^24 words (30_encoding.md R102), and the encoder (R91, R95). -/

namespace Sys2Proof

/-- The four refusal reasons of 60_exceptions.md R212. -/
inductive DecodeReason where
  | unassignedOpcode
  | dataBit7Set
  | nonzeroReservedField
  | clockChannelOutOfRange
  deriving DecidableEq, Repr

/-- `op = cw[23:16]` (R91). -/
def opField (cw : CommandWord) : Byte := cw.extractLsb' 16 8
/-- `d1 = cw[15:8]` (R91). -/
def d1Field (cw : CommandWord) : Byte := cw.extractLsb' 8 8
/-- `d2 = cw[7:0]` (R91). -/
def d2Field (cw : CommandWord) : Byte := cw.extractLsb' 0 8
/-- The command kind `op[7:4]` of the CHAN format (R91). -/
def kindField (op : Byte) : BitVec 4 := op.extractLsb' 4 4
/-- The channel nibble `op[3:0]` (R93). -/
def nibbleField (op : Byte) : ChannelNibble := op.extractLsb' 0 4
/-- The data value `d[6:0]` (R94). -/
def dataField (d : Byte) : Data7 := d.extractLsb' 0 7

/-- The CHAN arm of R102: both data bytes have bit 7 clear, and `build` makes the command. -/
def decodeChan (build : ChannelNibble → Data7 → Data7 → Instr) (op d1 d2 : Byte) : Except DecodeReason Instr :=
  if d1.msb || d2.msb then .error .dataBit7Set
  else .ok (build (nibbleField op) (dataField d1) (dataField d2))

/-- The SYS arm of R102: both operand bytes are zero. -/
def decodeSys (i : Instr) (d1 d2 : Byte) : Except DecodeReason Instr :=
  if d1 ≠ 0 ∨ d2 ≠ 0 then .error .nonzeroReservedField else .ok i

/-- The SET_DIV arm of R102, with `n = N_CLK_TOTAL`. -/
def decodeSetDiv (n : Nat) (d1 d2 : Byte) : Except DecodeReason Instr :=
  if n ≤ d1.toNat then .error .clockChannelOutOfRange else .ok (.setDiv d1 d2)

/-- The GET_DIV arm of R102, with `n = N_CLK_TOTAL`; the channel check is the first listed (R212). -/
def decodeGetDiv (n : Nat) (d1 d2 : Byte) : Except DecodeReason Instr :=
  if n ≤ d1.toNat then .error .clockChannelOutOfRange
  else if d2 ≠ 0 then .error .nonzeroReservedField
  else .ok (.getDiv d1)

/-- `decode` of R102 for a core with `n = N_CLK_TOTAL` clock channels; a refused word is named by the first check it
fails (R212). -/
def decode (n : Nat) (cw : CommandWord) : Except DecodeReason Instr :=
  let op := opField cw
  let d1 := d1Field cw
  let d2 := d2Field cw
  if kindField op = 0x8#4 then decodeChan .noteOff op d1 d2
  else if kindField op = 0x9#4 then decodeChan .noteOn op d1 d2
  else if kindField op = 0xB#4 then decodeChan .controlChange op d1 d2
  else if op = 0xF8#8 then decodeSys .clock d1 d2
  else if op = 0xFA#8 then decodeSys .start d1 d2
  else if op = 0xFB#8 then decodeSys .cont d1 d2
  else if op = 0xFC#8 then decodeSys .stop d1 d2
  else if op = 0x01#8 then decodeSys .poll d1 d2
  else if op = 0x02#8 then decodeSetDiv n d1 d2
  else if op = 0x03#8 then decodeGetDiv n d1 d2
  else .error .unassignedOpcode

/-- One row of the opcode map: a word matches it when `(cw & mask) == value`; `checksChannel` marks the two rows with
the value check of R96. -/
structure OpcodeRow where
  value : CommandWord
  mask : CommandWord
  checksChannel : Bool
  deriving DecidableEq, Repr

/-- The row of each instruction (R95). -/
def rowOf : Instr → OpcodeRow
  | .noteOff _ _ _ => ⟨0x800000, 0xF08080, false⟩
  | .noteOn _ _ _ => ⟨0x900000, 0xF08080, false⟩
  | .controlChange _ _ _ => ⟨0xB00000, 0xF08080, false⟩
  | .clock => ⟨0xF80000, 0xFFFFFF, false⟩
  | .start => ⟨0xFA0000, 0xFFFFFF, false⟩
  | .cont => ⟨0xFB0000, 0xFFFFFF, false⟩
  | .stop => ⟨0xFC0000, 0xFFFFFF, false⟩
  | .poll => ⟨0x010000, 0xFFFFFF, false⟩
  | .setDiv _ _ => ⟨0x020000, 0xFF0000, true⟩
  | .getDiv _ => ⟨0x030000, 0xFF00FF, true⟩

/-- The opcode map: the ten rows of R95. -/
def opcodeMap : List OpcodeRow :=
  [rowOf (.noteOff 0 0 0), rowOf (.noteOn 0 0 0), rowOf (.controlChange 0 0 0), rowOf .clock, rowOf .start,
    rowOf .cont, rowOf .stop, rowOf .poll, rowOf (.setDiv 0 0), rowOf (.getDiv 0)]

/-- A word matches a row's pattern (R95). -/
def OpcodeRow.matchesWord (r : OpcodeRow) (cw : CommandWord) : Prop := cw &&& r.mask = r.value

/-- A word passes a row's value check in a core with `n = N_CLK_TOTAL` (R96). -/
def OpcodeRow.passes (r : OpcodeRow) (n : Nat) (cw : CommandWord) : Prop :=
  r.checksChannel = true → (d1Field cw).toNat < n

/-- The word `op:d1:d2` (R91). -/
def packWord (op d1 d2 : Byte) : CommandWord := op ++ d1 ++ d2

/-- A 7-bit data value as a byte: bit 7 is 0 (R94). -/
def dataByte (v : Data7) : Byte := 0#1 ++ v

/-- The opcode of a CHAN command: the kind and the channel nibble (R91, R93). -/
def chanOp (kind : BitVec 4) (c : ChannelNibble) : Byte := kind ++ c

/-- The word of an instruction, from the opcode map of R95. -/
def encode : Instr → CommandWord
  | .noteOff c p v => packWord (chanOp 0x8#4 c) (dataByte p) (dataByte v)
  | .noteOn c p v => packWord (chanOp 0x9#4 c) (dataByte p) (dataByte v)
  | .controlChange c n v => packWord (chanOp 0xB#4 c) (dataByte n) (dataByte v)
  | .clock => packWord 0xF8#8 0#8 0#8
  | .start => packWord 0xFA#8 0#8 0#8
  | .cont => packWord 0xFB#8 0#8 0#8
  | .stop => packWord 0xFC#8 0#8 0#8
  | .poll => packWord 0x01#8 0#8 0#8
  | .setDiv j r => packWord 0x02#8 j r
  | .getDiv j => packWord 0x03#8 j 0#8

/-- The command word whose low `nbits` bits are those of `w`, every bit above them 0.  The table's words are one
24-bit word each, so its bit numbers are those of R91. -/
def wordOfTableBits (nbits w : Nat) : CommandWord := BitVec.ofNat 24 (w % 2 ^ nbits)

/-- What the decoder of this core reads from a word numbered as spec/opcode_table.json numbers it. -/
def decodeTableWord (nbits w : Nat) : Option Instr :=
  match decode Config.params.nClkTotal (wordOfTableBits nbits w) with
  | .ok i => some i
  | .error _ => none

end Sys2Proof
end

