-- ==== Sys2Proof/Machine/Tables.lean ====
section
/-! DEFINITION. The constants the source fixes (00_scope.md R16), the division table (20_memory.md R73) and the reset
divisions (10_state.md R47). -/

namespace Sys2Proof.Machine

/-- `NOTE_REF`, the reference pitch (R16, R120). -/
def noteRef : Int := 12
/-- The last index of the Voltage Table (R71, R120). -/
def vtLast : Int := 120
/-- `ACCENT_THRESHOLD` (R16, R143). -/
def accentThreshold : Nat := 80
/-- `DIV_MAX`, the largest division index (R16, R181). -/
def divMax : Int := 7
/-- `PULSE_WIDTH`, in milliseconds (R16, R190). -/
def pulseWidth : Nat := 10

/-- `DIV_TABLE`, ticks per pulse (R73). -/
def divTable : Vector Nat 8 := #v[6, 12, 24, 48, 96, 192, 384, 768]

/-- `DEFAULT_DIV[j]`: 0, 2, then 0, and 2 for the LED channel, which is number `N_CLK` (R16, R17, R47, R196). -/
def defaultDiv (p : Params) (j : Nat) : BitVec 3 :=
  if p.hasLed ∧ j = p.nClk then 2#3 else if j = 1 then 2#3 else 0#3

end Sys2Proof.Machine
end

