-- ==== Sys2Proof/Machine/State.lean ====
section
/-! DEFINITION. The state of the core as plain data: 10_state.md R30 to R53, with the host's input list (R5, R92), the
observation record (R52) and the parameters (R16). -/

namespace Sys2Proof.Machine

/-- The primary channel record (R32). -/
structure PrimaryChannel where
  activeNoteCount : BitVec 8
  gate : Bool
  slide : Bool
  accent : Bool
  deriving DecidableEq, Repr

/-- A secondary channel record (R33). -/
structure SecondaryChannel where
  gate : Bool
  deriving DecidableEq, Repr

/-- A clock channel record (R37). -/
structure ClockChannel where
  tickCount : BitVec 16
  divisionIndex : BitVec 3
  pulseActive : Bool
  pulseStartTime : Timestamp
  deriving DecidableEq, Repr

/-- The two outputs of a DAC device: A carries pitch, B the secondary CV (R74). -/
inductive SubChannel where
  | A
  | B
  deriving DecidableEq, Repr

/-- One chip-select-framed transaction: word `word` to device `device` (R52, R127). -/
structure Frame where
  device : Fin 4
  word : DacWord
  deriving DecidableEq, Repr

/-- What the two outputs of one device were last sent; `none` is UNWRITTEN (R52). -/
structure DacOutputs where
  a : Option Code
  b : Option Code
  deriving DecidableEq, Repr

/-- A digital output line (R40). -/
inductive Line where
  | gate (k : Fin 4)
  | slide
  | accent
  | pulse (j : Nat)
  deriving DecidableEq, Repr

/-- What happens inside a command, in order (R21): the bus actions of a frame (R106) and the changes of output lines
(R40).  A line event is recorded when the level changes (log 9). -/
inductive Event where
  | csLow (d : Fin 4)
  | transfer (b : Byte)
  | csHigh (d : Fin 4)
  | line (l : Line) (level : Bool)
  deriving DecidableEq, Repr

/-- The levels of all output lines at one command boundary (R40, R52). -/
structure LineLevels where
  gate : Vector Bool 4
  slide : Bool
  accent : Bool
  pulse : List Bool
  deriving DecidableEq, Repr

/-- The observation record (R52), with the order of bus actions and line changes inside commands (R21; log 9). -/
structure Obs where
  frames : List Frame
  cv : Vector DacOutputs 4
  lines : List LineLevels
  events : List Event
  deriving DecidableEq, Repr

/-- The whole state.  `ch0` to `rdata` is the record of R30.  `now`, `pos` and `input` are the command input (R92, R9,
R5), `obs` the observation record (R52), `params` the parameters (R16), which no step changes (R49). -/
structure State where
  ch0 : PrimaryChannel
  /-- Output channels 1, 2 and 3, at positions 0, 1 and 2. -/
  ch : Vector SecondaryChannel 3
  clk : List ClockChannel
  transportRunning : Bool
  rdata : Byte
  /-- The timestamp of the current command (R92). -/
  now : Timestamp
  /-- The position of the next command, which plays the role of the program counter (R9). -/
  pos : Nat
  /-- What the host has still to deliver. -/
  input : List Input
  obs : Obs
  params : Params
  deriving DecidableEq, Repr

/-- No fault exists: no legal command traps (R210, R211). -/
inductive Fault where
  deriving DecidableEq, Repr

/-- Why the model gives no meaning and takes no step. -/
inductive Refusal where
  /-- An arm of `exec` without a meaning; no arm raises it.  Safe. -/
  | notModelled (mnemonic : String)
  /-- Raised by fetch: the opcode is in no row (R99, R212).  Safe. -/
  | unassignedOpcode
  /-- Raised by fetch: a data byte of a MIDI channel command has bit 7 set (R94, R99).  Safe. -/
  | dataBit7Set
  /-- Raised by fetch: a field fixed at 0x00 is not zero (R98, R99).  Safe. -/
  | nonzeroReservedField
  /-- Raised by fetch, and by SET_DIV and GET_DIV on a clock channel that has no record (R96, R99).  Safe. -/
  | clockChannelOutOfRange
  /-- Raised by fetch: the program has no next command (R244; log 5).  Safe. -/
  | endOfProgram
  deriving DecidableEq, Repr

/-- Clock channel `j` after reset (R53). -/
def ClockChannel.reset (p : Params) (j : Nat) : ClockChannel where
  tickCount := 0
  divisionIndex := defaultDiv p j
  pulseActive := false
  pulseStartTime := 0

/-- The observation record after reset: no frame, every output UNWRITTEN (R53, R242). -/
def Obs.reset : Obs where
  frames := []
  cv := Vector.replicate 4 ⟨none, none⟩
  lines := []
  events := []

/-- The state after reset of a core with parameters `p` (R53, R240). -/
def State.resetWith (p : Params) : State where
  ch0 := { activeNoteCount := 0, gate := false, slide := false, accent := false }
  ch := Vector.replicate 3 ⟨false⟩
  clk := (List.range p.nClkTotal).map (ClockChannel.reset p)
  transportRunning := false
  rdata := 0
  now := 0
  pos := 0
  input := []
  obs := Obs.reset
  params := p

/-- The state of this core after reset (R53, R240). -/
def State.reset : State := State.resetWith Config.params

end Sys2Proof.Machine
end

