-- ==== Sys2Proof/Machine/Flags.lean ====
section
/-! DEFINITION. The computations behind the note count and the accent flag (00_scope.md R19, 10_state.md R34,
41_note_events.md R141, R143), and the output lines as functions of state (10_state.md R40). -/

namespace Sys2Proof.Machine

/-- `sat_inc(x, max)` is `min(x+1, max)`, stored at 8 bits (R19, R34). -/
def satInc (x max : BitVec 8) : BitVec 8 := BitVec.ofNat 8 (min (x.toNat + 1) max.toNat)

/-- `sat_dec(x)` is `max(x-1, 0)`, stored at 8 bits (R19, R34). -/
def satDec (x : BitVec 8) : BitVec 8 := BitVec.ofNat 8 (x.toNat - 1)

/-- Accent is set when the velocity exceeds the threshold (R143 step 4). -/
def accentOf (velocity : Data7) : Bool := decide (accentThreshold < velocity.toNat)

/-- The three note states of the primary channel (R141). -/
inductive NoteState where
  | idle
  | held
  | legato
  deriving DecidableEq, Repr

/-- The note state is a function of the count (R141). -/
def noteStateOf (count : BitVec 8) : NoteState :=
  if count.toNat = 0 then .idle else if count.toNat = 1 then .held else .legato

/-- `GATE[k]` (R40). -/
def State.gateLevel (s : State) (k : Fin 4) : Bool :=
  match k with
  | 0 => s.ch0.gate
  | 1 => s.ch[0].gate
  | 2 => s.ch[1].gate
  | 3 => s.ch[2].gate

/-- `PULSE[j]`; a clock channel that does not exist has no line, and reads low (R40). -/
def State.pulseLevel (s : State) (j : Nat) : Bool :=
  match s.clk[j]? with
  | some c => c.pulseActive
  | none => false

/-- The level of an output line: a line is high exactly when its flag is true (R40, R41). -/
def State.level (s : State) : Line → Bool
  | .gate k => s.gateLevel k
  | .slide => s.ch0.slide
  | .accent => s.ch0.accent
  | .pulse j => s.pulseLevel j

/-- All output lines of a state (R40). -/
def State.lines (s : State) : LineLevels where
  gate := Vector.ofFn s.gateLevel
  slide := s.ch0.slide
  accent := s.ch0.accent
  pulse := s.clk.map (·.pulseActive)

end Sys2Proof.Machine
end

