-- ==== Sys2Proof/Machine/Operands.lean ====
section
/-! DEFINITION. What the operands of the commands stand for: channel routing (41_note_events.md R140), the quantizer
and the code tables (40_quantizer_dac.md R120 to R124), the controller filter (R149), the requested division index
(30_encoding.md R97, R181), thresholds and elapsed time (42_clock_transport.md R170, R190). -/

namespace Sys2Proof.Machine

/-- `clamp(x, lo, hi)` over the integers (R19). -/
def clampInt (x lo hi : Int) : Int := if x < lo then lo else if hi < x then hi else x

/-- `midi_ch = op[3:0] + 1` (R93). -/
def midiChannel (c : ChannelNibble) : Nat := c.toNat + 1

/-- Where a note command goes. -/
inductive Route where
  | primary
  /-- Output channel `i + 1`. -/
  | secondary (i : Fin 3)
  | ignored
  deriving DecidableEq, Repr

/-- MIDI channels 1..4 act on output channels 0..3; channels 5..16 on none (R140). -/
def route (c : ChannelNibble) : Route :=
  match midiChannel c with
  | 1 => .primary
  | 2 => .secondary 0
  | 3 => .secondary 1
  | 4 => .secondary 2
  | _ => .ignored

/-- `quantize(pitch)`, over the integers (R120). -/
def quantize (pitch : Int) : Int := clampInt (pitch - noteRef) 0 vtLast

/-- `VT[i]`; an index outside the table cannot occur (R72), and the last entry stands in for it. -/
def voltageAt (p : Params) (i : Int) : Code := p.vt[min i.toNat 120]'(by omega)

/-- `pitchCode(pitch)` is `VT[quantize(pitch)]` (R123). -/
def pitchCode (p : Params) (pitch : Int) : Code := voltageAt p (quantize pitch)

/-- `VEL_TO_CODE(v)` (R124). -/
def velocityCode (p : Params) (v : Data7) : Code := p.velToCode[v.toNat]'(v.isLt)

/-- `CC_TO_CODE(v)` (R124). -/
def controllerCode (p : Params) (v : Data7) : Code := p.ccToCode[v.toNat]'(v.isLt)

/-- Whether a CONTROL_CHANGE is consumed: the designated controller, and a channel the filter admits (R149). -/
def ccConsumed (p : Params) (c : ChannelNibble) (controller : Data7) : Bool :=
  decide (controller = p.ccNumber) &&
    match p.ccChannel with
    | none => true
    | some c' => decide (c = c')

/-- The index SET_DIV writes: the operand read as two's complement and clamped to 0..DIV_MAX (R97, R181). -/
def requestedIndex (r : Byte) : BitVec 3 := BitVec.ofInt 3 (clampInt r.toInt 0 divMax)

/-- `DIV_TABLE[i]` (R73). -/
def ticksPerPulse (i : BitVec 3) : Nat := divTable[i.toNat]'(i.isLt)

/-- `thr(j) = DIV_TABLE[clk[j].divisionIndex]` (R170). -/
def ClockChannel.threshold (c : ClockChannel) : Nat := ticksPerPulse c.divisionIndex

/-- `(now - pulseStartTime) mod 2^32` (R190). -/
def ClockChannel.elapsed (c : ClockChannel) (now : Timestamp) : Nat := (now - c.pulseStartTime).toNat

end Sys2Proof.Machine
end

