-- ==== Sys2Proof/Machine/Ops.lean ====
section
/-! DEFINITION. The named operations the meanings are written over: the DAC codec and its frames (40_quantizer_dac.md
R126 to R130), the setters of the channel lines, the pulse primitives and the sweep over clock channels
(42_clock_transport.md R171, R172), the host's configuration port, and taking and retiring an input. -/

namespace Sys2Proof.Machine

/-! ## The DAC codec -/

/-- The word for sub-channel `sub` and `code`, masked to 12 bits (R103, R105). -/
def dacWord (sub : SubChannel) (code : BitVec 16) : DacWord :=
  (match sub with
    | .A => 0x1000#16
    | .B => 0x9000#16) ||| 0x2000#16 ||| (code &&& 0x0FFF#16)

/-- The high byte `w[15:8]`, sent first (R76). -/
def highByte (w : DacWord) : Byte := w.extractLsb' 8 8
/-- The low byte `w[7:0]`, sent second (R76). -/
def lowByte (w : DacWord) : Byte := w.extractLsb' 0 8

/-- The four bus actions of a frame, in order (R106). -/
def frameActions (f : Frame) : List Event :=
  [.csLow f.device, .transfer (highByte f.word), .transfer (lowByte f.word), .csHigh f.device]

/-- The bits of one serial transfer, most significant bit first (R76). -/
def msbFirst (b : Byte) : List Bool :=
  [b.getLsbD 7, b.getLsbD 6, b.getLsbD 5, b.getLsbD 4, b.getLsbD 3, b.getLsbD 2, b.getLsbD 1, b.getLsbD 0]

/-- What one event puts on the serial data line (R76). -/
def Event.dataBits : Event → List Bool
  | .csLow _ => []
  | .transfer b => msbFirst b
  | .csHigh _ => []
  | .line _ _ => []

/-- The sub-channel a word selects: bit 15 (R104, R127). -/
def subOf (w : DacWord) : SubChannel := if w.getLsbD 15 then .B else .A

/-- The 12-bit magnitude of a word (R104, R127). -/
def codeOf (w : DacWord) : Code := w.extractLsb' 0 12

/-- What an output was last sent (R52). -/
def DacOutputs.get (o : DacOutputs) : SubChannel → Option Code
  | .A => o.a
  | .B => o.b

/-- Record a code sent to an output (R127). -/
def DacOutputs.put (o : DacOutputs) (sub : SubChannel) (code : Code) : DacOutputs :=
  match sub with
  | .A => { o with a := some code }
  | .B => { o with b := some code }

/-- What a frame changes in `Obs.cv` (R127). -/
def cvAfterFrame (cv : Vector DacOutputs 4) (f : Frame) : Vector DacOutputs 4 :=
  cv.set f.device.val (cv[f.device.val].put (subOf f.word) (codeOf f.word))

/-- `DacFrame(d, w)`: the four bus actions, and their observation (R127).  No core state changes. -/
def State.dacFrame (s : State) (d : Fin 4) (w : DacWord) : State :=
  { s with obs :=
    { s.obs with
      frames := s.obs.frames ++ [⟨d, w⟩]
      cv := cvAfterFrame s.obs.cv ⟨d, w⟩
      events := s.obs.events ++ frameActions ⟨d, w⟩ } }

/-- `sendVoltage(d, s, code)` (R126). -/
def State.sendVoltage (s : State) (d : Fin 4) (sub : SubChannel) (code : BitVec 16) : State :=
  s.dacFrame d (dacWord sub code)

/-- `writePitch(k, pitch)`: output channel `k` is device `k`, sub-channel A (R129, R74). -/
def State.writePitch (s : State) (k : Fin 4) (pitch : Data7) : State :=
  s.sendVoltage k .A ((pitchCode s.params pitch.toNat).setWidth 16)

/-- `writeSecondary(k, code)`: output channel `k` is device `k`, sub-channel B (R130, R74). -/
def State.writeSecondary (s : State) (k : Fin 4) (code : Code) : State :=
  s.sendVoltage k .B (code.setWidth 16)

/-! ## The channel records and their lines -/

/-- A line event when the level changes, none when it does not (R40; log 9). -/
def lineChange (l : Line) (old new : Bool) : List Event := if old = new then [] else [.line l new]

/-- Append events in order (R21). -/
def State.record (s : State) (es : List Event) : State :=
  { s with obs := { s.obs with events := s.obs.events ++ es } }

/-- `ch0.activeNoteCount <- n`. -/
def State.setCount (s : State) (n : BitVec 8) : State :=
  { s with ch0 := { s.ch0 with activeNoteCount := n } }

/-- `ch0.gate <- b`; GATE[0] follows (R40). -/
def State.setPrimaryGate (s : State) (b : Bool) : State :=
  { s.record (lineChange (.gate 0) s.ch0.gate b) with ch0 := { s.ch0 with gate := b } }

/-- `ch0.slide <- b`; SLIDE follows (R40). -/
def State.setSlide (s : State) (b : Bool) : State :=
  { s.record (lineChange .slide s.ch0.slide b) with ch0 := { s.ch0 with slide := b } }

/-- `ch0.accent <- b`; ACCENT follows (R40). -/
def State.setAccent (s : State) (b : Bool) : State :=
  { s.record (lineChange .accent s.ch0.accent b) with ch0 := { s.ch0 with accent := b } }

/-- `ch[i+1].gate <- b`; GATE[i+1] follows (R40). -/
def State.setSecondaryGate (s : State) (i : Fin 3) (b : Bool) : State :=
  { s.record (lineChange (.gate i.succ) s.ch[i.val].gate b) with ch := s.ch.set i.val ⟨b⟩ }

/-! ## Clock channels -/

/-- `fire(j)` on a record, at timestamp `now` (R171). -/
def ClockChannel.fire (c : ClockChannel) (now : Timestamp) : ClockChannel :=
  { c with pulseActive := true, pulseStartTime := now }

/-- What PULSE[j] does when channel `j` fires: it rises, and if it is already high it stays high under EXTEND (R174) and
dips for zero length under the glitch variant (U1; log 14). -/
def fireEvents (policy : Retrigger) (j : Nat) (active : Bool) : List Event :=
  if active then
    match policy with
    | .extend => []
    | .glitch => [.line (.pulse j) false, .line (.pulse j) true]
  else [.line (.pulse j) true]

/-- `retract(j)` on a record (R172). -/
def ClockChannel.retract (c : ClockChannel) : ClockChannel :=
  { c with pulseActive := false }

/-- What PULSE[j] does when channel `j` retracts (R172). -/
def retractEvents (j : Nat) (active : Bool) : List Event := lineChange (.pulse j) active false

/-- `tickCount <- 0`. -/
def ClockChannel.zeroCount (c : ClockChannel) : ClockChannel := { c with tickCount := 0 }

/-- One channel's part of CLOCK: count the tick, and fire at the threshold (R175). -/
def ClockChannel.tick (c : ClockChannel) (policy : Retrigger) (now : Timestamp) (j : Nat) :
    ClockChannel × List Event :=
  let counted : ClockChannel := { c with tickCount := c.tickCount + 1 }
  if counted.threshold ≤ counted.tickCount.toNat then
    ((counted.fire now).zeroCount, fireEvents policy j c.pulseActive)
  else (counted, [])

/-- One channel's part of START and CONTINUE: fire, then reset the count (R177). -/
def ClockChannel.restart (c : ClockChannel) (policy : Retrigger) (now : Timestamp) (j : Nat) :
    ClockChannel × List Event :=
  ((c.fire now).zeroCount, fireEvents policy j c.pulseActive)

/-- One channel's part of STOP: retract, then reset the count (R179). -/
def ClockChannel.halt (c : ClockChannel) (j : Nat) : ClockChannel × List Event :=
  (c.retract.zeroCount, retractEvents j c.pulseActive)

/-- One channel's part of POLL: retract an active pulse whose elapsed time exceeds the width (R190). -/
def ClockChannel.expire (c : ClockChannel) (now : Timestamp) (j : Nat) : ClockChannel × List Event :=
  if c.pulseActive = true ∧ pulseWidth < c.elapsed now then (c.retract, retractEvents j c.pulseActive)
  else (c, [])

/-- One channel's part of SET_DIV: the clamped index, and the count reset (R181). -/
def ClockChannel.configure (c : ClockChannel) (r : Byte) : ClockChannel :=
  { c with divisionIndex := requestedIndex r, tickCount := 0 }

/-- The loop over clock channels in ascending order, from number `j` on: the new records, and the events in order. -/
def sweep (f : ClockChannel → Nat → ClockChannel × List Event) (j : Nat) :
    List ClockChannel → List ClockChannel × List Event
  | [] => ([], [])
  | c :: cs =>
    let here := f c j
    let rest := sweep f (j + 1) cs
    (here.1 :: rest.1, here.2 ++ rest.2)

/-- Run `f` on every clock channel, `j = 0, 1, ..., N_CLK_TOTAL-1`. -/
def State.forEachClock (s : State) (f : ClockChannel → Nat → ClockChannel × List Event) : State :=
  { s.record (sweep f 0 s.clk).2 with clk := (sweep f 0 s.clk).1 }

/-- `transportRunning <- b`. -/
def State.setTransport (s : State) (b : Bool) : State := { s with transportRunning := b }

/-- `rdata <- v`. -/
def State.setRdata (s : State) (v : Byte) : State := { s with rdata := v }

/-- Replace the record of clock channel `j`. -/
def State.setClock (s : State) (j : Nat) (c : ClockChannel) : State := { s with clk := s.clk.set j c }

/-- What START and CONTINUE both do (R177, R178). -/
def State.startTransport (s : State) : State :=
  (s.setTransport true).forEachClock fun c j => c.restart s.params.retrigger s.now j

/-! ## Inputs -/

/-- The refusal that names the first check a word fails (R212). -/
def refusalOf : DecodeReason → Refusal
  | .unassignedOpcode => .unassignedOpcode
  | .dataBit7Set => .dataBit7Set
  | .nonzeroReservedField => .nonzeroReservedField
  | .clockChannelOutOfRange => .clockChannelOutOfRange

/-- Take command `c`, leaving `rest` to come: its timestamp is `now` for the whole command (R92). -/
def State.accept (s : State) (c : Command) (rest : List Input) : State :=
  { s with now := c.stamp, input := rest }

/-- A command is complete: the position advances by one (R9), and the line levels after it are observed (R52). -/
def State.retire (s : State) : State :=
  { s with pos := s.pos + 1, obs := { s.obs with lines := s.obs.lines ++ [s.lines] } }

/-- A reset at a command boundary: every field at its reset value, the parameters kept (R240, R241; log 7). -/
def State.hostReset (s : State) (rest : List Input) : State :=
  { State.resetWith s.params with input := rest }

/-- What the next input asks of the core. -/
inductive Fetched where
  /-- Run `i` in state `s`. -/
  | run (i : Instr) (s : State)
  /-- The host reset the core, which is now `s`. -/
  | reset (s : State)
  | refuse (r : Refusal)

/-- Take the next input and decode it (R90, R99, R102). -/
def State.fetch (s : State) : Fetched :=
  match s.input with
  | [] => .refuse .endOfProgram
  | .reset :: rest => .reset (s.hostReset rest)
  | .command c :: rest =>
    match decode s.params.nClkTotal c.word with
    | .ok i => .run i (s.accept c rest)
    | .error r => .refuse (refusalOf r)

/-- Put a command at the head of the input, at the timestamp of the command before it (R108). -/
def State.deliver (s : State) (w : CommandWord) : State :=
  { s with input := .command ⟨w, s.now⟩ :: s.input }

/-- The core with a whole program to take (R5). -/
def State.load (s : State) (program : List Command) : State :=
  { s with input := program.map .command }

end Sys2Proof.Machine
end

