-- ==== Sys2Proof/Machine/ClockTransport.lean ====
section
/-! DEFINITION. CLOCK, START, CONTINUE, STOP, POLL, SET_DIV and GET_DIV (42_clock_transport.md). -/

namespace Sys2Proof.Machine

/-- CLOCK: ignored while the transport is stopped (R175). -/
def execClock (s : State) : Host.Outcome State Fault Refusal :=
  .next (if s.transportRunning then s.forEachClock fun c j => c.tick s.params.retrigger s.now j else s)

/-- START (R177). -/
def execStart (s : State) : Host.Outcome State Fault Refusal := .next s.startTransport

/-- CONTINUE has exactly the effect of START (R178). -/
def execContinue (s : State) : Host.Outcome State Fault Refusal := .next s.startTransport

/-- STOP (R179). -/
def execStop (s : State) : Host.Outcome State Fault Refusal :=
  .next ((s.setTransport false).forEachClock fun c j => c.halt j)

/-- POLL (R190). -/
def execPoll (s : State) : Host.Outcome State Fault Refusal :=
  .next (s.forEachClock fun c j => c.expire s.now j)

/-- SET_DIV (R181).  A clock channel without a record is refused (R96, R99). -/
def execSetDiv (j r : Byte) (s : State) : Host.Outcome State Fault Refusal :=
  match s.clk[j.toNat]? with
  | some c => .next (s.setClock j.toNat (c.configure r))
  | none => .refused .clockChannelOutOfRange

/-- GET_DIV (R195).  A clock channel without a record is refused (R96, R99). -/
def execGetDiv (j : Byte) (s : State) : Host.Outcome State Fault Refusal :=
  match s.clk[j.toNat]? with
  | some c => .next (s.setRdata (c.divisionIndex.setWidth 8))
  | none => .refused .clockChannelOutOfRange

end Sys2Proof.Machine
end

