-- ==== Sys2Proof/Machine/Notes.lean ====
section
/-! DEFINITION. NOTE_ON, NOTE_OFF and CONTROL_CHANGE (41_note_events.md). -/

namespace Sys2Proof.Machine

/-- NOTE_ON on the primary channel, in the source's step order (R143). -/
def noteOnPrimary (pitch velocity : Data7) (s : State) : State :=
  let s1 := s.setCount (satInc s.ch0.activeNoteCount s.params.countMax)
  let s2 := s1.writePitch 0 pitch
  let s3 := s2.setPrimaryGate true
  let s4 := s3.setAccent (accentOf velocity)
  if 1 < s4.ch0.activeNoteCount.toNat then s4.setSlide true else s4

/-- NOTE_ON on output channel `i + 1` (R144). -/
def noteOnSecondary (i : Fin 3) (pitch velocity : Data7) (s : State) : State :=
  let s1 := s.writePitch i.succ pitch
  let s2 := s1.writeSecondary i.succ (velocityCode s.params velocity)
  s2.setSecondaryGate i true

/-- NOTE_OFF on the primary channel, in the source's step order (R145). -/
def noteOffPrimary (s : State) : State :=
  let s1 := s.setCount (satDec s.ch0.activeNoteCount)
  let s2 := if s1.ch0.activeNoteCount.toNat ≤ 1 then s1.setSlide false else s1
  if s2.ch0.activeNoteCount.toNat = 0 then
    let s3 := (s2.setPrimaryGate false).setAccent false
    if s.params.releaseZeroesSecondary then s3.writeSecondary 0 0 else s3
  else s2

/-- NOTE_OFF on output channel `i + 1` (R146). -/
def noteOffSecondary (i : Fin 3) (s : State) : State :=
  (s.writeSecondary i.succ 0).setSecondaryGate i false

/-- NOTE_ON, routed by its MIDI channel (R140); velocity 0 is an ordinary Note-On (R148). -/
def execNoteOn (c : ChannelNibble) (pitch velocity : Data7) (s : State) : Host.Outcome State Fault Refusal :=
  .next (match route c with
    | .primary => noteOnPrimary pitch velocity s
    | .secondary i => noteOnSecondary i pitch velocity s
    | .ignored => s)

/-- NOTE_OFF, routed by its MIDI channel (R140); neither pitch nor velocity is read (R147). -/
def execNoteOff (c : ChannelNibble) (_pitch _velocity : Data7) (s : State) : Host.Outcome State Fault Refusal :=
  .next (match route c with
    | .primary => noteOffPrimary s
    | .secondary i => noteOffSecondary i s
    | .ignored => s)

/-- CONTROL_CHANGE: the designated controller drives the primary channel's secondary CV (R149, R150). -/
def execControlChange (c : ChannelNibble) (controller value : Data7) (s : State) :
    Host.Outcome State Fault Refusal :=
  .next (if ccConsumed s.params c controller then s.writeSecondary 0 (controllerCode s.params value) else s)

end Sys2Proof.Machine
end

