-- ==== Sys2Proof/Machine/Dispatch.lean ====
section
/-! DEFINITION. One arm per command: 30_encoding.md R95. -/

namespace Sys2Proof.Machine

def exec (i : Instr) (s : State) : Host.Outcome State Fault Refusal :=
  match i with
  | .noteOff c pitch velocity => Sys2Proof.Machine.execNoteOff c pitch velocity s
  | .noteOn c pitch velocity => Sys2Proof.Machine.execNoteOn c pitch velocity s
  | .controlChange c controller value => Sys2Proof.Machine.execControlChange c controller value s
  | .clock => Sys2Proof.Machine.execClock s
  | .start => Sys2Proof.Machine.execStart s
  | .cont => Sys2Proof.Machine.execContinue s
  | .stop => Sys2Proof.Machine.execStop s
  | .poll => Sys2Proof.Machine.execPoll s
  | .setDiv j r => Sys2Proof.Machine.execSetDiv j r s
  | .getDiv j => Sys2Proof.Machine.execGetDiv j s

end Sys2Proof.Machine
end

