-- ==== Sys2Proof/Machine/Step.lean ====
section
/-! DEFINITION. One step: one whole command (30_encoding.md R90), a reset by the host (70_reset_and_hazards.md R241), or
a refusal (60_exceptions.md R212). -/

namespace Sys2Proof.Machine

/-- One step takes the next input.  A command runs to completion (R5) and is retired; a refused word takes no step. -/
def step (s : State) : Host.Outcome State Fault Refusal :=
  match s.fetch with
  | .refuse r => .refused r
  | .reset t => .next t
  | .run i t =>
    match exec i t with
    | .next u => .next u.retire
    | .fault f => .fault f
    | .refused r => .refused r

/-- The command word `w`, numbered as the opcode table numbers it, at the head of the input: the next step takes it. -/
def State.withFetchWord (s : State) (nbits w : Nat) : State := s.deliver (wordOfTableBits nbits w)

end Sys2Proof.Machine
end

