-- ==== Sys2Proof/Machine/Assembler.lean ====
section
/-! DEFINITION. The textual syntax for programs: 30_encoding.md R107 (lines, operands, comments), R108 (the timestamp
prefix) and R109 (pseudo-instructions).  A program text is a list of characters; its meaning is a list of commands, or
`none` where the assembler rejects it.  Lexical details R107 leaves open are in log 22. -/

namespace Sys2Proof.Machine

/-! ## Operands in range (R107: rejected, not wrapped) -/

/-- `x` as a natural number, if it is in `lo..hi`. -/
def operandIn (lo hi : Nat) (x : Int) : Option Nat :=
  if (lo : Int) ≤ x ∧ x ≤ (hi : Int) then some x.toNat else none

/-- A MIDI channel, written 1..16, as its nibble (R93, R107). -/
def asmChannel (x : Int) : Option ChannelNibble := (operandIn 1 16 x).map fun c => BitVec.ofNat 4 (c - 1)

/-- A 7-bit value 0..127 (R107). -/
def asmData (x : Int) : Option Data7 := (operandIn 0 127 x).map (BitVec.ofNat 7)

/-- A clock channel number 0..N_CLK_TOTAL-1, with `n = N_CLK_TOTAL` (R107). -/
def asmClockChannel (n : Nat) (x : Int) : Option Byte :=
  if 0 ≤ x ∧ x < n ∧ x < 256 then some (BitVec.ofInt 8 x) else none

/-- A requested index -128..127, in two's complement (R97, R107). -/
def asmRequested (x : Int) : Option Byte :=
  if -128 ≤ x ∧ x ≤ 127 then some (BitVec.ofInt 8 x) else none

/-! ## Mnemonics -/

/-- The instructions one line stands for, with `n = N_CLK_TOTAL` (R107, R109). -/
def assembleLine (n : Nat) (mnemonic : String) (operands : List Int) : Option (List Instr) :=
  match mnemonic, operands with
  | "NOTE_ON", [c, p, v] => do return [.noteOn (← asmChannel c) (← asmData p) (← asmData v)]
  | "NOTE_OFF", [c, p, v] => do return [.noteOff (← asmChannel c) (← asmData p) (← asmData v)]
  | "CC", [c, k, v] => do return [.controlChange (← asmChannel c) (← asmData k) (← asmData v)]
  | "CLOCK", [] => some [.clock]
  | "START", [] => some [.start]
  | "CONTINUE", [] => some [.cont]
  | "STOP", [] => some [.stop]
  | "POLL", [] => some [.poll]
  | "SET_DIV", [j, r] => do return [.setDiv (← asmClockChannel n j) (← asmRequested r)]
  | "GET_DIV", [j] => do return [.getDiv (← asmClockChannel n j)]
  | "TICKS", [k] => if 1 ≤ k then some (List.replicate k.toNat .clock) else none
  | "RESTART", [] => some [.stop, .start]
  | "NOTE_ON0", [c, p] => do return [.noteOn (← asmChannel c) (← asmData p) 0]
  | _, _ => none

/-! ## Characters -/

/-- White space inside a line. -/
def isBlank (c : Char) : Bool := c == ' ' || c == '\t' || c == '\r'

/-- Drop white space at both ends. -/
def trim (cs : List Char) : List Char := ((cs.dropWhile isBlank).reverse.dropWhile isBlank).reverse

/-- The pieces between occurrences of `sep`. -/
def splitAtChar (sep : Char) : List Char → List (List Char)
  | [] => [[]]
  | c :: cs =>
    match splitAtChar sep cs with
    | [] => [[c]]
    | piece :: pieces => if c = sep then [] :: piece :: pieces else (c :: piece) :: pieces

/-- The value of a digit below `base`, if `c` is one. -/
def digitOf (base : Nat) (c : Char) : Option Nat :=
  let v := c.toNat
  let d :=
    if 48 ≤ v ∧ v ≤ 57 then v - 48
    else if 65 ≤ v ∧ v ≤ 70 then v - 55
    else if 97 ≤ v ∧ v ≤ 102 then v - 87
    else base
  if d < base then some d else none

/-- The value of the digits `cs` after a number whose value is `acc`. -/
def digitsFrom (base acc : Nat) : List Char → Option Nat
  | [] => some acc
  | c :: cs => (digitOf base c).bind fun d => digitsFrom base (acc * base + d) cs

/-- A number of at least one digit. -/
def digits (base : Nat) : List Char → Option Nat
  | [] => none
  | c :: cs => digitsFrom base 0 (c :: cs)

/-- A decimal number, or a hexadecimal one with a `0x` prefix (R107). -/
def parseNat : List Char → Option Nat
  | '0' :: 'x' :: cs => digits 16 cs
  | cs => digits 10 cs

/-- A number with an optional minus sign. -/
def parseInt : List Char → Option Int
  | '-' :: cs => (parseNat cs).map fun k => -(k : Int)
  | cs => (parseNat cs).map fun k => (k : Int)

/-- Every element, or `none` when one is missing. -/
def allSome {α : Type} : List (Option α) → Option (List α)
  | [] => some []
  | none :: _ => none
  | some x :: xs => (allSome xs).map (x :: ·)

/-- The operands of a line, separated by commas. -/
def parseOperands (cs : List Char) : Option (List Int) :=
  if trim cs = [] then some []
  else allSome ((splitAtChar ',' cs).map fun piece => parseInt (trim piece))

/-- The commands of one line's text after its timestamp prefix, all at `stamp` (R108, R109). -/
def parseBody (n : Nat) (stamp : Timestamp) (cs : List Char) : Option (List Command) :=
  let mnemonic := cs.takeWhile fun c => !isBlank c
  (parseOperands (cs.dropWhile fun c => !isBlank c)).bind fun operands =>
    (assembleLine n (String.ofList mnemonic) operands).map fun is => is.map fun i => ⟨encode i, stamp⟩

/-- The timestamp prefix `@<now>`, a decimal number 0..2^32-1; without it, the timestamp of the line before (R108). -/
def parseStamp (previous : Timestamp) : List Char → Option (Timestamp × List Char)
  | '@' :: cs =>
    ((digits 10 (cs.takeWhile fun c => !isBlank c)).bind fun k => operandIn 0 4294967295 k).map fun k =>
      (BitVec.ofNat 32 k, trim (cs.dropWhile fun c => !isBlank c))
  | cs => some (previous, cs)

/-- One line: a comment starts at `;`, an empty line stands for nothing.  The line's timestamp goes on to the next. -/
def parseLine (n : Nat) (previous : Timestamp) (line : List Char) : Option (Timestamp × List Command) :=
  let text := trim (line.takeWhile fun c => c != ';')
  if text = [] then some (previous, [])
  else (parseStamp previous text).bind fun (stamp, body) => (parseBody n stamp body).map fun cmds => (stamp, cmds)

/-- All lines, one after the other. -/
def parseLines (n : Nat) (previous : Timestamp) : List (List Char) → Option (List Command)
  | [] => some []
  | line :: lines =>
    (parseLine n previous line).bind fun (stamp, cmds) => (parseLines n stamp lines).map (cmds ++ ·)

/-- The program a text stands for, for a core with `n = N_CLK_TOTAL`; the first line's timestamp defaults to 0 (R108). -/
def assemble (n : Nat) (text : List Char) : Option (List Command) := parseLines n 0 (splitAtChar '\n' text)

end Sys2Proof.Machine
end

