-- ==== Sys2Proof/Machine/Trace.lean ====
section
/-! DEFINITION. Reading the observation record (10_state.md R40, R43, R52), and runs of several commands
(70_reset_and_hazards.md R244). -/

namespace Sys2Proof.Machine

/-- Whether an event is a bus action of a frame (R106). -/
def Event.isBus : Event → Bool
  | .csLow _ => true
  | .transfer _ => true
  | .csHigh _ => true
  | .line _ _ => false

/-- The bus actions among the events, in order. -/
def busTrace (es : List Event) : List Event := es.filter Event.isBus

/-- The level of `CS_N[d]` after one event (R43). -/
def csAfterEvent (d : Fin 4) (level : Bool) : Event → Bool
  | .csLow d' => if d' = d then false else level
  | .csHigh d' => if d' = d then true else level
  | .transfer _ => level
  | .line _ _ => level

/-- The level of `CS_N[d]` after `es`, high at reset (R43, R53). -/
def csAfter (d : Fin 4) (es : List Event) : Bool := es.foldl (csAfterEvent d) true

/-- The level of output line `l` after one event (R40). -/
def lineAfterEvent (l : Line) (level : Bool) : Event → Bool
  | .line l' v => if l' = l then v else level
  | .csLow _ => level
  | .transfer _ => level
  | .csHigh _ => level

/-- The level of output line `l` after `es`, low at reset (R240). -/
def lineAfter (l : Line) (es : List Event) : Bool := es.foldl (lineAfterEvent l) false

/-- What each output was last sent by `frames`, UNWRITTEN before the first (R52). -/
def cvAfterFrames (frames : List Frame) : Vector DacOutputs 4 :=
  frames.foldl cvAfterFrame (Vector.replicate 4 ⟨none, none⟩)

/-- Run instructions one after the other, each at its timestamp, to the first that does not complete (R5, R92). -/
def execTimed : List (Timestamp × Instr) → State → Host.Outcome State Fault Refusal
  | [], s => .next s
  | (stamp, i) :: rest, s =>
    match exec i { s with now := stamp } with
    | .next t => execTimed rest t
    | .fault f => .fault f
    | .refused r => .refused r

/-- CLOCKs at the given timestamps. -/
def clocksAt (stamps : List Timestamp) : List (Timestamp × Instr) := stamps.map fun stamp => (stamp, .clock)

end Sys2Proof.Machine
end

