-- ==== Sys2Proof/Safety.lean ====
section
/-! DEFINITION. What claims are stated in: the invariants of the core (10_state.md R35, R38, R43, R52), what a command
leaves alone (41_note_events.md R152, 42_clock_transport.md R197), and runs without a refusal (R212, R244). -/

namespace Sys2Proof.Machine

/-! ## Invariants -/

/-- The invariants of the primary channel (R35). -/
structure PrimaryOk (s : State) : Prop where
  gate_iff : s.ch0.gate = true ↔ 0 < s.ch0.activeNoteCount.toNat
  slide_iff : s.ch0.slide = true ↔ 1 < s.ch0.activeNoteCount.toNat
  accent_gate : s.ch0.accent = true → s.ch0.gate = true
  count_le : s.ch0.activeNoteCount.toNat ≤ s.params.countMax.toNat

/-- The invariants of the clock channels: one record per channel (R17), and R38.  `divisionIndex <= 7` is in its type. -/
structure ClocksOk (s : State) : Prop where
  channel_count : s.clk.length = s.params.nClkTotal
  ticks_below : ∀ c ∈ s.clk, c.tickCount.toNat < c.threshold
  ticks_small : ∀ c ∈ s.clk, c.tickCount.toNat ≤ 767
  stopped_zero : s.transportRunning = false → ∀ c ∈ s.clk, c.tickCount.toNat = 0

/-- The observation record tells the truth: every chip select is high (R43), the bus carried exactly the frames, each a
word of R104, the outputs hold what the frames last sent (R52), the output lines are where the events left them (R40),
and there is one record of line levels per command (R52). -/
structure ObservationOk (s : State) : Prop where
  selects_high : ∀ d, csAfter d s.obs.events = true
  bus_is_frames : busTrace s.obs.events = s.obs.frames.flatMap frameActions
  words_legal : ∀ f ∈ s.obs.frames, f.word &&& 0x7000#16 = 0x3000#16
  cv_is_last_sent : s.obs.cv = cvAfterFrames s.obs.frames
  lines_are_levels : ∀ l, lineAfter l s.obs.events = s.level l
  lines_per_command : s.obs.lines.length = s.pos

/-! ## What a command leaves alone -/

/-- The clock section and the read port are the same (R152). -/
structure SameClockSide (s t : State) : Prop where
  clk : t.clk = s.clk
  transportRunning : t.transportRunning = s.transportRunning
  rdata : t.rdata = s.rdata

/-- The note section, the frames and the DAC outputs are the same (R197). -/
structure SameNoteSide (s t : State) : Prop where
  ch0 : t.ch0 = s.ch0
  ch : t.ch = s.ch
  frames : t.obs.frames = s.obs.frames
  cv : t.obs.cv = s.obs.cv
  bus : busTrace t.obs.events = busTrace s.obs.events

/-- The command input, the parameters and the recorded line levels are the same. -/
structure SameHostSide (s t : State) : Prop where
  now : t.now = s.now
  pos : t.pos = s.pos
  input : t.input = s.input
  params : t.params = s.params
  lines : t.obs.lines = s.obs.lines

/-- The instructions of the note section (R152). -/
def isNote : Instr → Bool
  | .noteOff _ _ _ => true
  | .noteOn _ _ _ => true
  | .controlChange _ _ _ => true
  | .clock => false
  | .start => false
  | .cont => false
  | .stop => false
  | .poll => false
  | .setDiv _ _ => false
  | .getDiv _ => false

/-- `s` with another clock section. -/
def State.withClockSide (s : State) (clk : List ClockChannel) (running : Bool) (rdata : Byte) : State :=
  { s with clk := clk, transportRunning := running, rdata := rdata }

/-- `s` with another note section. -/
def State.withNoteSide (s : State) (ch0 : PrimaryChannel) (ch : Vector SecondaryChannel 3) (frames : List Frame)
    (cv : Vector DacOutputs 4) : State :=
  { s with ch0 := ch0, ch := ch, obs := { s.obs with frames := frames, cv := cv } }

/-! ## Runs -/

/-- `program`, run from reset, ends in `t` with no refusal (R244). -/
def RunsTo (program : List Command) (t : State) : Prop :=
  core.run program.length (State.reset.load program) = .next t

end Sys2Proof.Machine
end

