-- ==== Sys2Proof/Certificates/Slice0/Obligations.lean ====
section
/-! DEFINITION. The statements for the provers.  Each docstring names the rule it formalises; where the rule rests on a
decision the spec marks as its own (`D<n>` of spec/92_eei_decisions.md) or on the model's own choice (`log <n>`), it
says so. -/

open Sys2Proof Sys2Proof.Machine

/-! ## Decoding and encoding -/

/-- Encoding then decoding gives the instruction back, every operand at every value (R91, R95, R97, R102; the layout is
the spec's decision D3, D4). -/
def Obligations.DecodeOfEncodeIsTheInstruction : Prop :=
  ∀ (n : Nat) (i : Instr), i.wf n = true → decode n (encode i) = .ok i

/-- A word that decodes is the word of that instruction, and no other, and the instruction is well formed (R95, R96,
R102; D3, D4, D16). -/
def Obligations.DecodedWordIsItsEncoding : Prop :=
  ∀ (n : Nat) (w : CommandWord) (i : Instr), decode n w = .ok i → encode i = w ∧ i.wf n = true

/-- No word matches two rows of the opcode map (R95, last sentences; D4). -/
def Obligations.NoWordMatchesTwoRows : Prop :=
  ∀ (w : CommandWord) (r r' : OpcodeRow), r ∈ opcodeMap → r' ∈ opcodeMap → r.matchesWord w → r'.matchesWord w → r = r'

/-- Exactly the words that match no row, or fail the row's value check, are refused (R99; D5). -/
def Obligations.RefusedExactlyOutsideTheOpcodeMap : Prop :=
  ∀ (n : Nat) (w : CommandWord),
    (∃ reason, decode n w = .error reason) ↔ ¬ ∃ r ∈ opcodeMap, r.matchesWord w ∧ r.passes n w

/-- The refusal names the first failed check (R102, R212; D5). -/
def Obligations.RefusalNamesTheFirstFailedCheck : Prop :=
  ∀ (n : Nat) (w : CommandWord),
    let op := opField w
    let d1 := d1Field w
    let d2 := d2Field w
    let chan := kindField op = 0x8#4 ∨ kindField op = 0x9#4 ∨ kindField op = 0xB#4
    let sys := op = 0xF8#8 ∨ op = 0xFA#8 ∨ op = 0xFB#8 ∨ op = 0xFC#8 ∨ op = 0x01#8
    (decode n w = .error .dataBit7Set ↔ chan ∧ (d1.msb = true ∨ d2.msb = true)) ∧
    (decode n w = .error .nonzeroReservedField ↔
      (sys ∧ (d1 ≠ 0 ∨ d2 ≠ 0)) ∨ (op = 0x03#8 ∧ d1.toNat < n ∧ d2 ≠ 0)) ∧
    (decode n w = .error .clockChannelOutOfRange ↔ (op = 0x02#8 ∨ op = 0x03#8) ∧ n ≤ d1.toNat) ∧
    (decode n w = .error .unassignedOpcode ↔ ¬ chan ∧ ¬ sys ∧ op ≠ 0x02#8 ∧ op ≠ 0x03#8)

/-- Words of spec/95_test_vectors.md sections 2.3 to 2.9 decode as they say, in a core with two clock channels. -/
def Obligations.SampleWordsDecode : Prop :=
  decode 2 0x903C64 = .ok (.noteOn 0 60 100) ∧ decode 2 0x80637F = .ok (.noteOff 0 99 127) ∧
  decode 2 0xB10150 = .ok (.controlChange 1 1 80) ∧ decode 2 0xF80000 = .ok .clock ∧
  decode 2 0x0201FF = .ok (.setDiv 1 0xFF) ∧ decode 2 0x030100 = .ok (.getDiv 1) ∧
  decode 2 0xA03C40 = .error .unassignedOpcode ∧ decode 2 0x903C80 = .error .dataBit7Set ∧
  decode 2 0x010001 = .error .nonzeroReservedField ∧ decode 2 0x030201 = .error .clockChannelOutOfRange

/-! ## The step -/

/-- When the next command's word decodes to `i`, the step is `exec i` in the state with the command's timestamp and the
rest of the input; the step then advances the position (R9) and records the line levels (R52). -/
def Obligations.StepRunsTheDecodedInstruction : Prop :=
  ∀ (s : State) (c : Command) (rest : List Input) (i : Instr),
    s.input = .command c :: rest → decode s.params.nClkTotal c.word = .ok i →
    step s =
      match exec i { s with now := c.stamp, input := rest } with
      | .next t => .next { t with pos := t.pos + 1, obs := { t.obs with lines := t.obs.lines ++ [t.lines] } }
      | .fault f => .fault f
      | .refused r => .refused r

/-- A command word that does not decode is refused, by its reason (R212; D5), and an empty input is refused as the end
of the program (the model's own stop, log 5). -/
def Obligations.StepRefusesByName : Prop :=
  (∀ (s : State) (c : Command) (rest : List Input) (reason : DecodeReason),
    s.input = .command c :: rest → decode s.params.nClkTotal c.word = .error reason →
    step s = .refused (match reason with
      | .unassignedOpcode => .unassignedOpcode
      | .dataBit7Set => .dataBit7Set
      | .nonzeroReservedField => .nonzeroReservedField
      | .clockChannelOutOfRange => .clockChannelOutOfRange)) ∧
  (∀ s : State, s.input = [] → step s = .refused .endOfProgram)

/-- In a core with one record per clock channel, a command steps exactly when its word decodes, and nothing ever faults
(R211, R228). -/
def Obligations.LegalCommandsAlwaysStep : Prop :=
  (∀ s f, step s ≠ .fault f) ∧
  ∀ (s : State) (c : Command) (rest : List Input),
    s.clk.length = s.params.nClkTotal → s.input = .command c :: rest →
    ((∃ t, step s = .next t) ↔ ∃ i, decode s.params.nClkTotal c.word = .ok i)

/-- A command advances the position by one, takes exactly itself from the input, sets `now` to its timestamp, and adds
one record of line levels: GATE[k], SLIDE, ACCENT and PULSE[j] as the flags of the state it leaves (R9, R40, R52, R82,
R92; D23; `pos` and `input` are log 5, the list of records log 10). -/
def Obligations.CommandAdvancesThePosition : Prop :=
  ∀ (s t : State) (c : Command) (rest : List Input), s.input = .command c :: rest → step s = .next t →
    t.pos = s.pos + 1 ∧ t.input = rest ∧ t.now = c.stamp ∧
    ∃ levels : LineLevels, t.obs.lines = s.obs.lines ++ [levels] ∧
      levels.gate[0] = t.ch0.gate ∧ (∀ k : Fin 3, levels.gate[k.succ] = t.ch[k].gate) ∧
      levels.slide = t.ch0.slide ∧ levels.accent = t.ch0.accent ∧
      levels.pulse = t.clk.map (·.pulseActive)

/-- No step changes a parameter: the Voltage Table and every other parameter are fixed for the life of the core
(R49, R50, R85; the field is log 2). -/
def Obligations.ParametersNeverChange : Prop :=
  ∀ s t : State, step s = .next t → t.params = s.params

/-! ## Reset -/

/-- The reset values of every field, for any parameters (R53, R240; the spec's decision D21, D30): counts 0, flags
false, divisions at their defaults, every output UNWRITTEN, every line low and every chip select high.  `now`, `pos`,
`input` and the recorded line levels are the model's (log 5, log 6, log 10). -/
def Obligations.ResetValues : Prop :=
  State.reset = State.resetWith Config.params ∧
  ∀ p : Params,
    let s := State.resetWith p
    s.ch0 = { activeNoteCount := 0, gate := false, slide := false, accent := false } ∧
    (∀ k : Fin 3, s.ch[k].gate = false) ∧
    s.clk.length = p.nClkTotal ∧
    (∀ j c, s.clk[j]? = some c → c.tickCount = 0 ∧ c.divisionIndex = defaultDiv p j ∧ c.pulseActive = false ∧
      c.pulseStartTime = 0) ∧
    s.transportRunning = false ∧ s.rdata = 0 ∧ s.now = 0 ∧ s.pos = 0 ∧ s.input = [] ∧ s.params = p ∧
    s.obs.frames = [] ∧ s.obs.lines = [] ∧ s.obs.events = [] ∧
    (∀ d : Fin 4, s.obs.cv[d].a = none ∧ s.obs.cv[d].b = none) ∧
    (∀ l, s.level l = false) ∧ (∀ d, csAfter d s.obs.events = true)

/-- The number of clock channels is `N_CLK + (HAS_LED ? 1 : 0)` (R17), and the default divisions are 0 and 2 on the first
two, 0 on every further one, and 2 on the LED channel of a core that has one (R16, R47, R196; D17, D18): in any core with
a clock output, and so on this core's two channels, which are 6 and 24 ticks per pulse. -/
def Obligations.DefaultDivisions : Prop :=
  State.reset.clk.map (·.divisionIndex) = [0#3, 2#3] ∧ State.reset.clk.map (·.threshold) = [6, 24] ∧
  (∀ p : Params, p.hasLed = true → defaultDiv p p.nClk = 2#3) ∧
  (∀ (p : Params) (j : Nat), 2 ≤ j → (p.hasLed = true → j ≠ p.nClk) → defaultDiv p j = 0#3) ∧
  ∀ p : Params, 1 ≤ p.nClk →
    let division := (State.resetWith p).clk.map (·.divisionIndex)
    p.nClkTotal = p.nClk + (if p.hasLed = true then 1 else 0) ∧
    division.length = p.nClkTotal ∧
    division[0]? = some 0#3 ∧
    (2 ≤ p.nClkTotal → division[1]? = some 2#3) ∧
    (∀ j, 2 ≤ j → j < p.nClk → division[j]? = some 0#3) ∧
    (p.hasLed = true → division[p.nClk]? = some 2#3)

/-- A reset at a command boundary puts every field at its reset value, keeps the parameters and leaves the rest of the
input to come (R240, R241; D21; that a reset is an input is log 7). -/
def Obligations.HostResetRestoresTheResetState : Prop :=
  ∀ (s : State) (rest : List Input), s.input = .reset :: rest →
    step s = .next { State.resetWith s.params with input := rest }

/-- The parameters of this core are legal: in particular the Voltage Table is non-decreasing, whatever the free value
behind it is (R16, R71; log 1). -/
def Obligations.CoreParametersAreLegal : Prop := Config.params.Legal

/-! ## Quantizer and codes -/

/-- `quantize` is a saturating affine map, non-decreasing over all integers (R121). -/
def Obligations.QuantizeSaturates : Prop :=
  (∀ p : Int, 12 ≤ p → p ≤ 132 → quantize p = p - 12 ∧ 0 ≤ quantize p ∧ quantize p ≤ 120) ∧
  (∀ p : Int, p < 12 → quantize p = 0) ∧
  (∀ p : Int, 132 < p → quantize p = 120) ∧
  (∀ p q : Int, p ≤ q → quantize p ≤ quantize q) ∧
  (∀ d : Data7, quantize d.toNat ≤ 115)

/-- `pitchCode` is the table entry at the quantized index, the code for 0 V up to pitch 12, and non-decreasing (R123). -/
def Obligations.PitchCodeReadsTheTable : Prop :=
  ∀ p : Params, p.Legal →
    (∀ (pitch : Int) (i : Fin 121), (i.val : Int) = quantize pitch → pitchCode p pitch = p.vt[i]) ∧
    (∀ pitch : Int, pitch ≤ 12 → pitchCode p pitch = p.vt[0]) ∧
    (∀ a b : Int, a ≤ b → (pitchCode p a).toNat ≤ (pitchCode p b).toNat)

/-- The division table (R73), and the threshold of a channel as its entry (R170). -/
def Obligations.ThresholdIsTheTableEntry : Prop :=
  ∀ c : ClockChannel,
    [6, 12, 24, 48, 96, 192, 384, 768][c.divisionIndex.toNat]? = some c.threshold

/-! ## The DAC codec -/

/-- The DAC word: the encoding of R103, so bit 15 is the sub-channel, bits 14, 13, 12 are 0, 1, 1, and bits 11:0 are the
low 12 bits of the code, however wide it is. -/
def Obligations.DacWordEncoding : Prop :=
  ∀ (sub : SubChannel) (code : BitVec 16),
    dacWord sub code = (if sub = .B then 0x9000#16 else 0x1000#16) ||| 0x2000#16 ||| (code &&& 0x0FFF#16) ∧
    (dacWord sub code).getLsbD 15 = decide (sub = .B) ∧ (dacWord sub code).getLsbD 14 = false ∧
    (dacWord sub code).getLsbD 13 = true ∧ (dacWord sub code).getLsbD 12 = true ∧
    (dacWord sub code).extractLsb' 0 12 = code.extractLsb' 0 12 ∧
    dacWord .A 0 = 0x3000#16 ∧ dacWord .B 4095 = 0xBFFF#16

/-- A word goes out high byte first, most significant bit first: `w[15], w[14], ..., w[0]` (R76), between its device's
select going low and going high (R106). -/
def Obligations.FrameBitsOnTheWire : Prop :=
  ∀ (d : Fin 4) (w : DacWord),
    frameActions ⟨d, w⟩ = [.csLow d, .transfer (w.extractLsb' 8 8), .transfer (w.extractLsb' 0 8), .csHigh d] ∧
    (frameActions ⟨d, w⟩).flatMap Event.dataBits = (List.range 16).map fun i => w.getLsbD (15 - i)

/-- `sendVoltage` emits exactly one frame with the encoded word, to that device; only that output's last code changes,
and no core state (R126, R127; the frames and outputs are R52, the spec's decision D36, the recorded events log 9). -/
def Obligations.SendVoltageEmitsOneFrame : Prop :=
  ∀ (s : State) (d : Fin 4) (sub : SubChannel) (code : BitVec 16),
    let t := s.sendVoltage d sub code
    t.obs.frames = s.obs.frames ++ [⟨d, dacWord sub code⟩] ∧
    t.obs.events = s.obs.events ++ frameActions ⟨d, dacWord sub code⟩ ∧
    t.obs.cv[d].get sub = some (code.extractLsb' 0 12) ∧
    (∀ (e : Fin 4) (other : SubChannel), ¬ (e = d ∧ other = sub) → t.obs.cv[e].get other = s.obs.cv[e].get other) ∧
    t.ch0 = s.ch0 ∧ t.ch = s.ch ∧ SameClockSide s t ∧ SameHostSide s t

/-! ## NOTE_ON and NOTE_OFF -/

/-- NOTE_ON on the primary channel (R143): its encoding; the count, the gate, the accent, the slide, one pitch frame to
device 0, and nothing else; `pitchCode` is the Voltage Table entry at the quantized pitch. -/
def Obligations.NoteOnPrimary : Prop :=
  ∀ (s : State) (pitch velocity : Data7),
    opField (encode (.noteOn 0 pitch velocity)) = 0x90#8 ∧
    (d1Field (encode (.noteOn 0 pitch velocity))).toNat = pitch.toNat ∧
    (d2Field (encode (.noteOn 0 pitch velocity))).toNat = velocity.toNat ∧
    ∃ t, exec (.noteOn 0 pitch velocity) s = .next t ∧
    t.ch0.activeNoteCount.toNat = min (s.ch0.activeNoteCount.toNat + 1) s.params.countMax.toNat ∧
    t.ch0.gate = true ∧
    t.ch0.accent = decide (80 < velocity.toNat) ∧
    t.ch0.slide = (if 1 < t.ch0.activeNoteCount.toNat then true else s.ch0.slide) ∧
    t.obs.frames = s.obs.frames ++ [⟨0, 0x3000#16 ||| (pitchCode s.params pitch.toNat).setWidth 16⟩] ∧
    t.obs.cv[0].a = some (pitchCode s.params pitch.toNat) ∧ t.obs.cv[0].b = s.obs.cv[0].b ∧
    (∀ d : Fin 4, d ≠ 0 → t.obs.cv[d] = s.obs.cv[d]) ∧
    t.ch = s.ch ∧ SameClockSide s t ∧ SameHostSide s t

/-- NOTE_ON on output channel k = 1, 2, 3, which is MIDI channel k + 1 and DAC device k (R144; D6, D20, D31): the pitch
frame, then the secondary frame, the gate, and nothing else. -/
def Obligations.NoteOnSecondary : Prop :=
  ∀ (s : State) (i : Fin 3) (c : ChannelNibble) (pitch velocity : Data7), c.toNat = i.val + 1 →
    ∃ t, exec (.noteOn c pitch velocity) s = .next t ∧
    t.ch[i].gate = true ∧ (∀ k : Fin 3, k ≠ i → t.ch[k] = s.ch[k]) ∧ t.ch0 = s.ch0 ∧
    t.obs.frames = s.obs.frames ++
      [⟨i.succ, 0x3000#16 ||| (pitchCode s.params pitch.toNat).setWidth 16⟩,
        ⟨i.succ, 0xB000#16 ||| (s.params.velToCode[velocity.toNat]'(velocity.isLt)).setWidth 16⟩] ∧
    t.obs.cv[i.succ] = ⟨some (pitchCode s.params pitch.toNat), some (s.params.velToCode[velocity.toNat]'(velocity.isLt))⟩ ∧
    (∀ d : Fin 4, d ≠ i.succ → t.obs.cv[d] = s.obs.cv[d]) ∧
    SameClockSide s t ∧ SameHostSide s t

/-- NOTE_OFF on the primary channel (R145): its opcode; the count, the slide, and at count 0 the gate, the accent and the
zero frame to device 0 sub-channel B; nothing else.  The frame is for both values of PRIMARY_RELEASE_ZEROES_SECONDARY,
a parameter of the spec's decision D19. -/
def Obligations.NoteOffPrimary : Prop :=
  ∀ (s : State) (pitch velocity : Data7), opField (encode (.noteOff 0 pitch velocity)) = 0x80#8 ∧
    ∃ t, exec (.noteOff 0 pitch velocity) s = .next t ∧
    t.ch0.activeNoteCount.toNat = s.ch0.activeNoteCount.toNat - 1 ∧
    t.ch0.slide = (if t.ch0.activeNoteCount.toNat ≤ 1 then false else s.ch0.slide) ∧
    t.ch0.gate = (if t.ch0.activeNoteCount.toNat = 0 then false else s.ch0.gate) ∧
    t.ch0.accent = (if t.ch0.activeNoteCount.toNat = 0 then false else s.ch0.accent) ∧
    t.obs.frames = s.obs.frames ++
      (if t.ch0.activeNoteCount.toNat = 0 ∧ s.params.releaseZeroesSecondary = true then [⟨0, 0xB000#16⟩] else []) ∧
    t.obs.cv[0].a = s.obs.cv[0].a ∧
    t.obs.cv[0].b = (if t.ch0.activeNoteCount.toNat = 0 ∧ s.params.releaseZeroesSecondary = true then some (0 : Code)
      else s.obs.cv[0].b) ∧
    (∀ d : Fin 4, d ≠ 0 → t.obs.cv[d] = s.obs.cv[d]) ∧
    t.ch = s.ch ∧ SameClockSide s t ∧ SameHostSide s t

/-- NOTE_OFF on output channel k = 1, 2, 3 (R146; D6, D20): the zero frame to device k sub-channel B, the gate, and
nothing else, whatever the gate was. -/
def Obligations.NoteOffSecondary : Prop :=
  ∀ (s : State) (i : Fin 3) (c : ChannelNibble) (pitch velocity : Data7), c.toNat = i.val + 1 →
    ∃ t, exec (.noteOff c pitch velocity) s = .next t ∧
    t.ch[i].gate = false ∧ (∀ k : Fin 3, k ≠ i → t.ch[k] = s.ch[k]) ∧ t.ch0 = s.ch0 ∧
    t.obs.frames = s.obs.frames ++ [⟨i.succ, 0xB000#16⟩] ∧
    t.obs.cv[i.succ] = ⟨s.obs.cv[i.succ].a, some 0⟩ ∧
    (∀ d : Fin 4, d ≠ i.succ → t.obs.cv[d] = s.obs.cv[d]) ∧
    SameClockSide s t ∧ SameHostSide s t

/-- NOTE_ON and NOTE_OFF on MIDI channels 5..16 complete and change nothing (R140, R100; D6). -/
def Obligations.OtherMidiChannelsChangeNothing : Prop :=
  ∀ (s : State) (c : ChannelNibble) (pitch velocity : Data7), 5 ≤ midiChannel c →
    exec (.noteOn c pitch velocity) s = .next s ∧ exec (.noteOff c pitch velocity) s = .next s

/-- NOTE_OFF reads neither its pitch nor its velocity, on any channel (R147; D28). -/
def Obligations.NoteOffReadsNoOperand : Prop :=
  ∀ (s : State) (c : ChannelNibble) (p v p' v' : Data7), exec (.noteOff c p v) s = exec (.noteOff c p' v') s

/-- The state table of the primary channel, with N = COUNT_MAX >= 2 (R142, which the spec derives from R143 and R145;
the names are R141, D29). -/
def Obligations.PrimaryNoteStateTable : Prop :=
  ∀ (s t : State) (p v : Data7), PrimaryOk s → 2 ≤ s.params.countMax.toNat →
    let c := s.ch0.activeNoteCount.toNat
    let c' := t.ch0.activeNoteCount.toNat
    let st := noteStateOf s.ch0.activeNoteCount
    let st' := noteStateOf t.ch0.activeNoteCount
    (exec (.noteOn 0 p v) s = .next t →
      (st = .idle → st' = .held ∧ t.ch0.gate = true ∧ t.ch0.slide = false) ∧
      (st = .held → st' = .legato ∧ c' = 2 ∧ t.ch0.slide = true ∧ t.ch0.gate = true) ∧
      (st = .legato → st' = .legato ∧ c' = min (c + 1) s.params.countMax.toNat)) ∧
    (exec (.noteOff 0 p v) s = .next t →
      (st = .idle → st' = .idle ∧ t.ch0 = s.ch0) ∧
      (st = .held → st' = .idle ∧ t.ch0.gate = false ∧ t.ch0.accent = false) ∧
      (st = .legato → c' = c - 1 ∧ (c = 2 → st' = .held ∧ t.ch0.slide = false) ∧ (2 < c → st' = .legato)))

/-- The note count saturates: every write keeps it in 0..COUNT_MAX, an increment at COUNT_MAX and a decrement at 0 leave
it (R34). -/
def Obligations.NoteCountSaturates : Prop :=
  ∀ (i : Instr) (s t : State), exec i s = .next t →
    s.ch0.activeNoteCount.toNat ≤ s.params.countMax.toNat →
    t.ch0.activeNoteCount.toNat ≤ s.params.countMax.toNat ∧
    (∀ p v, i = .noteOn 0 p v → s.ch0.activeNoteCount = s.params.countMax →
      t.ch0.activeNoteCount = s.params.countMax) ∧
    (∀ p v, i = .noteOff 0 p v → s.ch0.activeNoteCount = 0 → t.ch0.activeNoteCount = 0)

/-- On NOTE_ON the pitch frame comes before the gate rises, on the primary and on the secondary channels; on a legato
Note-On only the pitch frame, the accent line and the slide line change (R256, R21; D20).  The line events are the
model's record of the order (log 9). -/
def Obligations.PitchFrameBeforeGate : Prop :=
  ∀ (s : State) (pitch velocity : Data7),
    (∃ t, exec (.noteOn 0 pitch velocity) s = .next t ∧
      t.obs.events = s.obs.events ++ frameActions ⟨0, 0x3000#16 ||| (pitchCode s.params pitch.toNat).setWidth 16⟩ ++
        (if s.ch0.gate = true then [] else [.line (.gate 0) true]) ++
        (if s.ch0.accent = t.ch0.accent then [] else [.line .accent t.ch0.accent]) ++
        (if s.ch0.slide = t.ch0.slide then [] else [.line .slide t.ch0.slide])) ∧
    (∀ (i : Fin 3) (c : ChannelNibble), c.toNat = i.val + 1 →
      ∃ t, exec (.noteOn c pitch velocity) s = .next t ∧
        t.obs.events = s.obs.events ++
          frameActions ⟨i.succ, 0x3000#16 ||| (pitchCode s.params pitch.toNat).setWidth 16⟩ ++
          frameActions ⟨i.succ, 0xB000#16 ||| (velocityCode s.params velocity).setWidth 16⟩ ++
          (if s.ch[i].gate = true then [] else [.line (.gate i.succ) true]))

/-- The order inside NOTE_OFF (R21, R145, R146; D20): on the primary channel slide, gate and accent fall before the zero
frame; on a secondary channel the zero frame comes before the gate falls.  The line events are log 9. -/
def Obligations.NoteOffOrderOfEffects : Prop :=
  ∀ (s : State) (pitch velocity : Data7),
    (∃ t, exec (.noteOff 0 pitch velocity) s = .next t ∧
      t.obs.events = s.obs.events ++
        (if s.ch0.slide = t.ch0.slide then [] else [.line .slide t.ch0.slide]) ++
        (if s.ch0.gate = t.ch0.gate then [] else [.line (.gate 0) t.ch0.gate]) ++
        (if s.ch0.accent = t.ch0.accent then [] else [.line .accent t.ch0.accent]) ++
        (if t.ch0.activeNoteCount.toNat = 0 ∧ s.params.releaseZeroesSecondary = true then
          frameActions ⟨0, 0xB000#16⟩ else [])) ∧
    (∀ (i : Fin 3) (c : ChannelNibble), c.toNat = i.val + 1 →
      ∃ t, exec (.noteOff c pitch velocity) s = .next t ∧
        t.obs.events = s.obs.events ++ frameActions ⟨i.succ, 0xB000#16⟩ ++
          (if s.ch[i].gate = true then [.line (.gate i.succ) false] else []))

/-! ## CONTROL_CHANGE -/

/-- A CONTROL_CHANGE of the designated controller, on a channel the filter admits, emits one frame to device 0
sub-channel B with the code of its value, and changes no core state (R149), for every CC_NUMBER, CC_CHANNEL (the spec's
decision D7) and CC_TO_CODE (D8). -/
def Obligations.ConsumedControlChange : Prop :=
  ∀ (s : State) (c : ChannelNibble) (controller value : Data7),
    controller = s.params.ccNumber → (s.params.ccChannel = none ∨ s.params.ccChannel = some c) →
    ∃ t, exec (.controlChange c controller value) s = .next t ∧
      t.obs.frames = s.obs.frames ++ [⟨0, 0xB000#16 ||| (s.params.ccToCode[value.toNat]'(value.isLt)).setWidth 16⟩] ∧
      t.obs.cv[0] = ⟨s.obs.cv[0].a, some (s.params.ccToCode[value.toNat]'(value.isLt))⟩ ∧
      (∀ d : Fin 4, d ≠ 0 → t.obs.cv[d] = s.obs.cv[d]) ∧
      t.obs.events = s.obs.events ++
        frameActions ⟨0, 0xB000#16 ||| (s.params.ccToCode[value.toNat]'(value.isLt)).setWidth 16⟩ ∧
      t.ch0 = s.ch0 ∧ t.ch = s.ch ∧ SameClockSide s t ∧ SameHostSide s t

/-- A CONTROL_CHANGE that is not consumed completes and changes nothing: another controller, or a channel the filter
rejects (R150). -/
def Obligations.UnconsumedControlChange : Prop :=
  ∀ (s : State) (c : ChannelNibble) (controller value : Data7),
    (controller ≠ s.params.ccNumber ∨ ∃ c', s.params.ccChannel = some c' ∧ c' ≠ c) →
    exec (.controlChange c controller value) s = .next s

/-! ## The two sections of the core -/

/-- NOTE_ON, NOTE_OFF and CONTROL_CHANGE neither read nor write the clock section; a note command on channel k touches
no other channel's record and emits frames only to device k, a CONTROL_CHANGE only to device 0 (R152).  That the nibble
`c` of a note command is output channel and device `c`, and that it emits nothing from 4 on, is the routing of R140 and
R74, the spec's decision D6 (log 20). -/
def Obligations.NoteCommandsStayInTheirChannel : Prop :=
  ∀ (i : Instr) (s t : State), isNote i = true → exec i s = .next t →
    SameClockSide s t ∧ SameHostSide s t ∧
    (∀ clk running rdata, exec i (s.withClockSide clk running rdata) = .next (t.withClockSide clk running rdata)) ∧
    (∃ added, t.obs.frames = s.obs.frames ++ added ∧
      (∀ c p v, (i = .noteOn c p v ∨ i = .noteOff c p v) →
        (∀ f ∈ added, f.device.val = c.toNat) ∧ (c ≠ 0 → t.ch0 = s.ch0) ∧
        (∀ k : Fin 3, k.val + 1 ≠ c.toNat → t.ch[k] = s.ch[k])) ∧
      (∀ c n v, i = .controlChange c n v → (∀ f ∈ added, f.device = 0) ∧ t.ch0 = s.ch0 ∧ t.ch = s.ch))

/-- CLOCK, START, CONTINUE, STOP, POLL, SET_DIV and GET_DIV neither read nor write channel state and emit no frame, and
the note commands do not touch clock state (R197). -/
def Obligations.ClockCommandsIgnoreTheNoteSection : Prop :=
  ∀ (i : Instr) (s t : State), exec i s = .next t →
    (isNote i = false → SameNoteSide s t ∧ SameHostSide s t ∧
      ∀ ch0 ch frames cv, exec i (s.withNoteSide ch0 ch frames cv) = .next (t.withNoteSide ch0 ch frames cv)) ∧
    (isNote i = true → SameClockSide s t)

/-- Each piece of state is written by its owners only: `rdata` by GET_DIV, `transportRunning` by START, CONTINUE and
STOP, a division index by SET_DIV on that channel, the channel records by NOTE_ON and NOTE_OFF, the clock records by the
clock commands (R31, R36, R45, R48, R49; D27). -/
def Obligations.StateIsWrittenByItsOwners : Prop :=
  ∀ (i : Instr) (s t : State), exec i s = .next t →
    (t.rdata ≠ s.rdata → ∃ j, i = .getDiv j) ∧
    (t.transportRunning ≠ s.transportRunning → i = .start ∨ i = .cont ∨ i = .stop) ∧
    (∀ j c d, s.clk[j]? = some c → t.clk[j]? = some d → d.divisionIndex ≠ c.divisionIndex →
      ∃ b r, i = .setDiv b r ∧ b.toNat = j) ∧
    (t.ch0 ≠ s.ch0 ∨ t.ch ≠ s.ch → ∃ c p v, i = .noteOn c p v ∨ i = .noteOff c p v) ∧
    (t.clk ≠ s.clk → i = .clock ∨ i = .start ∨ i = .cont ∨ i = .stop ∨ i = .poll ∨ ∃ j r, i = .setDiv j r) ∧
    t.clk.length = s.clk.length

/-- Only a fire (in CLOCK, START, CONTINUE) and POLL read the timestamp: any other command does the same whatever `now`
is (R92; D12). -/
def Obligations.OnlyFiresAndPollReadTheTimestamp : Prop :=
  ∀ (i : Instr) (s t : State) (stamp : Timestamp), i ≠ .clock → i ≠ .start → i ≠ .cont → i ≠ .poll →
    exec i s = .next t → exec i { s with now := stamp } = .next { t with now := stamp }

/-- A command emits at most two frames, after those already emitted (R228). -/
def Obligations.AtMostTwoFramesPerCommand : Prop :=
  ∀ (i : Instr) (s t : State), exec i s = .next t →
    ∃ added, t.obs.frames = s.obs.frames ++ added ∧ added.length ≤ 2

/-! ## Clock, transport, configuration -/

/-- CLOCK (R175; D14): ignored while the transport is stopped; otherwise every channel counts the tick, and fires and
returns to 0 at its threshold.  Nothing else changes. -/
def Obligations.ClockCountsAndFires : Prop :=
  ∀ s : State, ∃ t, exec .clock s = .next t ∧
    (s.transportRunning = false → t = s) ∧
    (s.transportRunning = true → t.clk.length = s.clk.length ∧ ∀ (j : Nat) (c : ClockChannel), s.clk[j]? = some c →
      t.clk[j]? = some (if c.threshold ≤ (c.tickCount + 1).toNat then
        { c with tickCount := 0, pulseActive := true, pulseStartTime := s.now }
        else { c with tickCount := c.tickCount + 1 })) ∧
    t.transportRunning = s.transportRunning ∧ t.rdata = s.rdata ∧ SameNoteSide s t ∧ SameHostSide s t

/-- START (R177): its word; running, and every channel fires at the command's timestamp (the spec's decision D32) with its
count at 0.  Nothing else changes. -/
def Obligations.StartFiresEveryChannel : Prop :=
  encode .start = 0xFA0000#24 ∧
  ∀ s : State, ∃ t, exec .start s = .next t ∧
    t.transportRunning = true ∧
    t.clk = s.clk.map (fun c => { c with tickCount := 0, pulseActive := true, pulseStartTime := s.now }) ∧
    t.rdata = s.rdata ∧ SameNoteSide s t ∧ SameHostSide s t

/-- CONTINUE has exactly the effect of START, firing every channel and resetting every count (R178; D34). -/
def Obligations.ContinueIsStart : Prop :=
  encode .cont = 0xFB0000#24 ∧
  ∀ s : State, ∃ t, exec .cont s = .next t ∧ exec .start s = .next t ∧
    t.transportRunning = true ∧
    t.clk = s.clk.map (fun c => { c with tickCount := 0, pulseActive := true, pulseStartTime := s.now })

/-- STOP (R179): its word; stopped, every pulse retracted whatever its time, every count 0; divisions and start times
stay.  Nothing else changes. -/
def Obligations.StopRetractsEveryPulse : Prop :=
  encode .stop = 0xFC0000#24 ∧
  ∀ s : State, ∃ t, exec .stop s = .next t ∧
    t.transportRunning = false ∧
    t.clk = s.clk.map (fun c => { c with tickCount := 0, pulseActive := false }) ∧
    t.rdata = s.rdata ∧ SameNoteSide s t ∧ SameHostSide s t

/-- POLL (R190; D12): a pulse is retracted exactly when it is active and its elapsed time modulo 2^32 exceeds 10,
running or not.  Nothing else changes. -/
def Obligations.PollRetractsExpiredPulses : Prop :=
  ∀ s : State, ∃ t, exec .poll s = .next t ∧
    t.clk = s.clk.map (fun c =>
      if c.pulseActive = true ∧ 10 < (s.now.toNat + 2 ^ 32 - c.pulseStartTime.toNat) % 2 ^ 32 then
        { c with pulseActive := false } else c) ∧
    t.transportRunning = s.transportRunning ∧ t.rdata = s.rdata ∧ SameNoteSide s t ∧ SameHostSide s t

/-- SET_DIV (R181; D15): the index clamped to 0..7 from a two's complement operand, the count 0, that channel only, its
pulse untouched.  Nothing else changes. -/
def Obligations.SetDivClampsAndResetsTheCount : Prop :=
  ∀ (s : State) (j r : Byte) (c : ClockChannel), s.clk[j.toNat]? = some c →
    ∃ t d, exec (.setDiv j r) s = .next t ∧
      t.clk[j.toNat]? = some d ∧
      (d.divisionIndex.toNat : Int) = (if r.toInt < 0 then 0 else if 7 < r.toInt then 7 else r.toInt) ∧
      d.tickCount = 0 ∧ d.pulseActive = c.pulseActive ∧ d.pulseStartTime = c.pulseStartTime ∧
      (∀ k, k ≠ j.toNat → t.clk[k]? = s.clk[k]?) ∧ t.clk.length = s.clk.length ∧
      t.transportRunning = s.transportRunning ∧ t.rdata = s.rdata ∧ SameNoteSide s t ∧ SameHostSide s t ∧
      t.obs.events = s.obs.events

/-- GET_DIV (R195; D27): `rdata` is the index, its bits 7:3 zero.  Nothing else changes. -/
def Obligations.GetDivReadsTheIndex : Prop :=
  ∀ (s : State) (j : Byte) (c : ClockChannel), s.clk[j.toNat]? = some c →
    ∃ t, exec (.getDiv j) s = .next t ∧
      t.rdata.toNat = c.divisionIndex.toNat ∧ t = { s with rdata := t.rdata }

/-- SET_DIV and GET_DIV on a clock channel that does not exist are refused by name (R96, R99; D16; that `exec` refuses
what decode already refuses is log 13). -/
def Obligations.AbsentClockChannelIsRefused : Prop :=
  ∀ (s : State) (j r : Byte), s.clk.length ≤ j.toNat →
    exec (.setDiv j r) s = .refused .clockChannelOutOfRange ∧ exec (.getDiv j) s = .refused .clockChannelOutOfRange

/-- A PULSE line falls only at a STOP, or at a POLL more than 10 ms after the fire (R173, R192; D33). -/
def Obligations.OnlyPollAndStopEndAPulse : Prop :=
  ∀ (i : Instr) (s t : State) (j : Nat) (c d : ClockChannel), exec i s = .next t →
    s.clk[j]? = some c → t.clk[j]? = some d → c.pulseActive = true → d.pulseActive = false →
    i = .stop ∨ (i = .poll ∧ 10 < (s.now - c.pulseStartTime).toNat)

/-- A PULSE line rises only by a fire, in START, CONTINUE, or a CLOCK while running that reaches the threshold, and the
start time is then the command's timestamp (R171, R175, R177; D32). -/
def Obligations.OnlyAFireStartsAPulse : Prop :=
  ∀ (i : Instr) (s t : State) (j : Nat) (c d : ClockChannel), exec i s = .next t →
    s.clk[j]? = some c → t.clk[j]? = some d → c.pulseActive = false → d.pulseActive = true →
    d.pulseStartTime = s.now ∧
      (i = .start ∨ i = .cont ∨
        (i = .clock ∧ s.transportRunning = true ∧ c.threshold ≤ (c.tickCount + 1).toNat))

/-- Retrigger under EXTEND: a START, CONTINUE or CLOCK that fires channels adds only the rises of lines that were low, so
a fire on an active pulse moves no line, and it restarts that pulse's time, whatever the other channels are (R174, R176;
the spec's decision D13; the record of line events is log 9). -/
def Obligations.RetriggerExtendsThePulse : Prop :=
  ∀ (i : Instr) (s : State), s.params.retrigger = .extend → (i = .start ∨ i = .cont ∨ i = .clock) →
    ∃ t added, exec i s = .next t ∧ t.obs.events = s.obs.events ++ added ∧
      (∀ e ∈ added, ∃ k, ∃ c : ClockChannel, s.clk[k]? = some c ∧ c.pulseActive = false ∧
        e = .line (.pulse k) true) ∧
      ∀ (j : Nat) (c : ClockChannel), s.clk[j]? = some c → c.pulseActive = true →
        (∀ level, Event.line (.pulse j) level ∉ added) ∧
        ((i = .clock → s.transportRunning = true ∧ c.threshold ≤ (c.tickCount + 1).toNat) →
          ∃ d, t.clk[j]? = some d ∧ d.pulseActive = true ∧ d.pulseStartTime = s.now ∧ d.tickCount = 0)

/-- While running, a channel with threshold T that starts at count 0 fires on the T-th, 2T-th, 3T-th, ... CLOCK and on no
other, whatever the timestamps: after n CLOCKs its count is n mod T, and its last pulse has the timestamp of the last
CLOCK whose number is a multiple of T (R176, which the spec derives from R175). -/
def Obligations.ChannelFiresEveryThresholdTicks : Prop :=
  ∀ (stamps : List Timestamp) (s : State) (j : Nat) (c : ClockChannel),
    s.transportRunning = true → s.clk[j]? = some c → c.tickCount = 0 →
    ∃ t d, execTimed (clocksAt stamps) s = .next t ∧ t.clk[j]? = some d ∧
      d.tickCount.toNat = stamps.length % c.threshold ∧ d.divisionIndex = c.divisionIndex ∧
      (stamps.length < c.threshold → d.pulseActive = c.pulseActive ∧ d.pulseStartTime = c.pulseStartTime) ∧
      (c.threshold ≤ stamps.length → d.pulseActive = true ∧
        stamps[stamps.length / c.threshold * c.threshold - 1]? = some d.pulseStartTime)

/-- After a SET_DIV that sets index i on channel j, the channel next fires on the DIV_TABLE[i]-th CLOCK counted while
running and not earlier, however many ticks had accumulated (R182, which the spec derives from R175 and R181).  While
running, that is the DIV_TABLE[i]-th CLOCK after it.  While stopped, CLOCKs are not counted, and it is the
DIV_TABLE[i]-th after the next START, which itself fires. -/
def Obligations.SetDivRestartsTheTickCount : Prop :=
  ∀ (stamps : List Timestamp) (s : State) (j r : Byte) (c : ClockChannel), s.clk[j.toNat]? = some c →
    (s.transportRunning = true →
      ∃ t u d, exec (.setDiv j r) s = .next t ∧ execTimed (clocksAt stamps) t = .next u ∧
        u.clk[j.toNat]? = some d ∧
        (stamps.length < ticksPerPulse (requestedIndex r) →
          d.pulseActive = c.pulseActive ∧ d.pulseStartTime = c.pulseStartTime) ∧
        (stamps.length = ticksPerPulse (requestedIndex r) →
          d.pulseActive = true ∧ stamps.getLast? = some d.pulseStartTime ∧ d.tickCount = 0)) ∧
    (s.transportRunning = false → ∀ (idle : List Timestamp) (started : Timestamp),
      ∃ t u d, exec (.setDiv j r) s = .next t ∧
        execTimed (clocksAt idle ++ (started, .start) :: clocksAt stamps) t = .next u ∧
        u.clk[j.toNat]? = some d ∧ d.pulseActive = true ∧
        (stamps.length < ticksPerPulse (requestedIndex r) → d.pulseStartTime = started) ∧
        (stamps.length = ticksPerPulse (requestedIndex r) →
          stamps.getLast? = some d.pulseStartTime ∧ d.tickCount = 0))

/-- A pulse that no CLOCK, START, CONTINUE or STOP follows stays high until the first POLL at which 11 ms or more have
passed since it fired, and is low from then on (R191, which the spec derives from R190). -/
def Obligations.PulseStaysHighUntilItExpires : Prop :=
  ∀ (cmds : List (Timestamp × Instr)) (s t : State) (j : Nat) (c : ClockChannel),
    (∀ x ∈ cmds, x.2 ≠ .clock ∧ x.2 ≠ .start ∧ x.2 ≠ .cont ∧ x.2 ≠ .stop) →
    execTimed cmds s = .next t → s.clk[j]? = some c → c.pulseActive = true →
    ∃ d, t.clk[j]? = some d ∧ d.pulseStartTime = c.pulseStartTime ∧
      (d.pulseActive = true ↔ ∀ x ∈ cmds, x.2 = .poll → (x.1 - c.pulseStartTime).toNat < 11)

/-- If the timestamp goes backwards by `b` ms after a fire, the next POLL retracts the pulse at once, unless the step
back is so large that it reads as 10 ms or less forwards (R254, R190; D12). -/
def Obligations.TimeGoingBackRetractsAtOnce : Prop :=
  ∀ (s : State) (j : Nat) (c : ClockChannel) (b : Nat), s.clk[j]? = some c → 0 < b → b < 2 ^ 32 - 10 →
    s.now = c.pulseStartTime - BitVec.ofNat 32 b →
    ∃ t d, exec .poll s = .next t ∧ t.clk[j]? = some d ∧ d.pulseActive = false

/-- Among commands with the same timestamp the host's order decides (R216, which the spec derives): a CLOCK that fires a
channel leaves its line high through a POLL after it or before it, and CLOCK and STOP in either order leave every line
low and every count 0. -/
def Obligations.SameTimestampOrder : Prop :=
  ∀ s : State,
    (∀ (j : Nat) (c : ClockChannel), s.clk[j]? = some c → s.transportRunning = true →
      c.threshold ≤ (c.tickCount + 1).toNat →
      (∃ t, ∃ d : ClockChannel, execTimed [(s.now, .clock), (s.now, .poll)] s = .next t ∧ t.clk[j]? = some d ∧ d.pulseActive = true) ∧
      (∃ t, ∃ d : ClockChannel, execTimed [(s.now, .poll), (s.now, .clock)] s = .next t ∧ t.clk[j]? = some d ∧ d.pulseActive = true)) ∧
    (∃ t, execTimed [(s.now, .stop), (s.now, .clock)] s = .next t ∧
      ∀ d ∈ t.clk, d.pulseActive = false ∧ d.tickCount = 0) ∧
    (∃ t, execTimed [(s.now, .clock), (s.now, .stop)] s = .next t ∧
      ∀ d ∈ t.clk, d.pulseActive = false ∧ d.tickCount = 0)

/-! ## Invariants -/

/-- Every step keeps the invariants of the primary channel (R35, which the spec derives).  A legal COUNT_MAX is at least
1 (log 4). -/
def Obligations.StepKeepsPrimaryInvariants : Prop :=
  ∀ s t : State, 1 ≤ s.params.countMax.toNat → PrimaryOk s → step s = .next t → PrimaryOk t

/-- Every step keeps the invariants of the clock channels: R38, which the spec derives, and one record per channel
(R17). -/
def Obligations.StepKeepsClockInvariants : Prop :=
  ∀ s t : State, ClocksOk s → step s = .next t → ClocksOk t

/-- Every step keeps the observation record true: chip selects high at every command boundary (R43), the bus carrying
exactly the frames and their words legal (R104, R106), each output at what it was last sent (R52), each line where its
last change left it (R40), one record of line levels per command (R52; log 9, log 10). -/
def Obligations.StepKeepsTheObservationTrue : Prop :=
  ∀ s t : State, ObservationOk s → step s = .next t → ObservationOk t

/-- The three invariants hold at reset, for any parameters (R53; D21; log 4, log 9, log 10). -/
def Obligations.InvariantsHoldAtReset : Prop :=
  ∀ p : Params, PrimaryOk (State.resetWith p) ∧ ClocksOk (State.resetWith p) ∧ ObservationOk (State.resetWith p)

/-- An output is UNWRITTEN exactly while no frame has reached it (R242; D30). -/
def Obligations.UnwrittenUntilTheFirstFrame : Prop :=
  ∀ (s : State) (d : Fin 4) (sub : SubChannel), ObservationOk s →
    (s.obs.cv[d].get sub = none ↔ ∀ f ∈ s.obs.frames, ¬ (f.device = d ∧ subOf f.word = sub))

/-! ## The assembler -/

/-- What each line of R107 assembles to: the instruction with exactly the operands written, the channel nibble being
`midi_ch - 1`, when every operand is in its range, and no instruction when one is not, so nothing wraps; and the
pseudo-instructions expand as R109 says.  The syntax is the spec's decision D4; `n` is N_CLK_TOTAL, at most 17 (R16,
R17); lexical details are log 22. -/
def Obligations.AssemblerExpandsAndRejects : Prop :=
  (∀ (n : Nat) (k : Int), assembleLine n "TICKS" [k] =
    if 1 ≤ k then some (List.replicate k.toNat .clock) else none) ∧
  (∀ n, assembleLine n "RESTART" [] = some [.stop, .start]) ∧
  (∀ (n : Nat) (c p : Int), assembleLine n "NOTE_ON0" [c, p] = assembleLine n "NOTE_ON" [c, p, 0]) ∧
  (∀ line ∈ [("NOTE_ON", Instr.noteOn), ("NOTE_OFF", Instr.noteOff), ("CC", Instr.controlChange)],
    ∀ (n : Nat) (c x y : Int),
      ((1 ≤ c ∧ c ≤ 16) ∧ (0 ≤ x ∧ x ≤ 127) ∧ (0 ≤ y ∧ y ≤ 127) →
        ∃ nibble d1 d2, assembleLine n line.1 [c, x, y] = some [line.2 nibble d1 d2] ∧
          (nibble.toNat : Int) = c - 1 ∧ (d1.toNat : Int) = x ∧ (d2.toNat : Int) = y) ∧
      (¬ ((1 ≤ c ∧ c ≤ 16) ∧ (0 ≤ x ∧ x ≤ 127) ∧ (0 ≤ y ∧ y ≤ 127)) → assembleLine n line.1 [c, x, y] = none)) ∧
  (∀ (n : Nat) (j r : Int), n ≤ 17 →
    ((0 ≤ j ∧ j < n) ∧ (-128 ≤ r ∧ r ≤ 127) →
      ∃ d1 d2, assembleLine n "SET_DIV" [j, r] = some [.setDiv d1 d2] ∧ (d1.toNat : Int) = j ∧ d2.toInt = r) ∧
    (¬ ((0 ≤ j ∧ j < n) ∧ (-128 ≤ r ∧ r ≤ 127)) → assembleLine n "SET_DIV" [j, r] = none)) ∧
  (∀ (n : Nat) (j : Int), n ≤ 17 →
    (0 ≤ j ∧ j < n → ∃ d1, assembleLine n "GET_DIV" [j] = some [.getDiv d1] ∧ (d1.toNat : Int) = j) ∧
    (¬ (0 ≤ j ∧ j < n) → assembleLine n "GET_DIV" [j] = none)) ∧
  (∀ n, assembleLine n "CLOCK" [] = some [.clock] ∧ assembleLine n "START" [] = some [.start] ∧
    assembleLine n "CONTINUE" [] = some [.cont] ∧ assembleLine n "STOP" [] = some [.stop] ∧
    assembleLine n "POLL" [] = some [.poll]) ∧
  (∀ (n : Nat) (mnemonic : String) (operands : List Int) (is : List Instr),
    assembleLine n mnemonic operands = some is → ∀ i ∈ is, i.wf n = true)
end

