-- ==== Sys2Proof/Laws/Assembler.lean ====
section
/-! SUPPORT. What each operand reader of the assembler answers: in range the value written, out of range nothing
(R107). -/

namespace Sys2Proof.Machine

theorem operandIn_of_mem {lo hi : Nat} {x : Int} (h : (lo : Int) ≤ x ∧ x ≤ hi) : operandIn lo hi x = some x.toNat :=
  if_pos h

theorem operandIn_of_not_mem {lo hi : Nat} {x : Int} (h : ¬ ((lo : Int) ≤ x ∧ x ≤ hi)) : operandIn lo hi x = none :=
  if_neg h

/-- A channel 1..16 is the nibble one below it (R93). -/
theorem asmChannel_of_mem {x : Int} (h : 1 ≤ x ∧ x ≤ 16) :
    ∃ c, asmChannel x = some c ∧ (c.toNat : Int) = x - 1 := by
  refine ⟨_, by rw [asmChannel, operandIn_of_mem (by omega)]; rfl, ?_⟩
  rw [BitVec.toNat_ofNat]
  omega

theorem asmChannel_of_not_mem {x : Int} (h : ¬ (1 ≤ x ∧ x ≤ 16)) : asmChannel x = none := by
  rw [asmChannel, operandIn_of_not_mem (by omega)]
  rfl

theorem asmData_of_mem {x : Int} (h : 0 ≤ x ∧ x ≤ 127) : ∃ d, asmData x = some d ∧ (d.toNat : Int) = x := by
  refine ⟨_, by rw [asmData, operandIn_of_mem (by omega)]; rfl, ?_⟩
  rw [BitVec.toNat_ofNat]
  omega

theorem asmData_of_not_mem {x : Int} (h : ¬ (0 ≤ x ∧ x ≤ 127)) : asmData x = none := by
  rw [asmData, operandIn_of_not_mem (by omega)]
  rfl

theorem asmClockChannel_of_mem {n : Nat} {x : Int} (hn : n ≤ 256) (h : 0 ≤ x ∧ x < n) :
    ∃ j, asmClockChannel n x = some j ∧ (j.toNat : Int) = x := by
  refine ⟨_, if_pos ⟨h.1, h.2, by omega⟩, ?_⟩
  rw [BitVec.toNat_ofInt]
  omega

theorem asmClockChannel_of_not_mem {n : Nat} {x : Int} (h : ¬ (0 ≤ x ∧ x < n)) : asmClockChannel n x = none :=
  if_neg fun hx => h ⟨hx.1, hx.2.1⟩

/-- A requested index -128..127 is the byte whose two's complement value it is (R97). -/
theorem asmRequested_of_mem {x : Int} (h : -128 ≤ x ∧ x ≤ 127) : ∃ r, asmRequested x = some r ∧ r.toInt = x := by
  refine ⟨_, if_pos h, ?_⟩
  rw [BitVec.toInt_ofInt, Int.bmod_def]
  split <;> omega

theorem asmRequested_of_not_mem {x : Int} (h : ¬ (-128 ≤ x ∧ x ≤ 127)) : asmRequested x = none := if_neg h

end Sys2Proof.Machine
end

