-- ==== Sys2Proof/Laws/State.lean ====
section
/-! SUPPORT. What each named update of the state does to each field: one lemma per field per update, true by rfl. -/

namespace Sys2Proof.Machine

variable (s : State)

/-! ## record -/

@[simp] theorem State.record_ch0 (es : List Event) : (s.record es).ch0 = s.ch0 := rfl
@[simp] theorem State.record_ch (es : List Event) : (s.record es).ch = s.ch := rfl
@[simp] theorem State.record_clk (es : List Event) : (s.record es).clk = s.clk := rfl
@[simp] theorem State.record_transportRunning (es : List Event) : (s.record es).transportRunning = s.transportRunning := rfl
@[simp] theorem State.record_rdata (es : List Event) : (s.record es).rdata = s.rdata := rfl
@[simp] theorem State.record_now (es : List Event) : (s.record es).now = s.now := rfl
@[simp] theorem State.record_pos (es : List Event) : (s.record es).pos = s.pos := rfl
@[simp] theorem State.record_input (es : List Event) : (s.record es).input = s.input := rfl
@[simp] theorem State.record_params (es : List Event) : (s.record es).params = s.params := rfl
@[simp] theorem State.record_frames (es : List Event) : (s.record es).obs.frames = s.obs.frames := rfl
@[simp] theorem State.record_cv (es : List Event) : (s.record es).obs.cv = s.obs.cv := rfl
@[simp] theorem State.record_lines (es : List Event) : (s.record es).obs.lines = s.obs.lines := rfl
@[simp] theorem State.record_events (es : List Event) : (s.record es).obs.events = s.obs.events ++ es := rfl

/-! ## setCount -/

@[simp] theorem State.setCount_ch0 (n : BitVec 8) : (s.setCount n).ch0 = { s.ch0 with activeNoteCount := n } := rfl
@[simp] theorem State.setCount_ch (n : BitVec 8) : (s.setCount n).ch = s.ch := rfl
@[simp] theorem State.setCount_clk (n : BitVec 8) : (s.setCount n).clk = s.clk := rfl
@[simp] theorem State.setCount_transportRunning (n : BitVec 8) : (s.setCount n).transportRunning = s.transportRunning := rfl
@[simp] theorem State.setCount_rdata (n : BitVec 8) : (s.setCount n).rdata = s.rdata := rfl
@[simp] theorem State.setCount_now (n : BitVec 8) : (s.setCount n).now = s.now := rfl
@[simp] theorem State.setCount_pos (n : BitVec 8) : (s.setCount n).pos = s.pos := rfl
@[simp] theorem State.setCount_input (n : BitVec 8) : (s.setCount n).input = s.input := rfl
@[simp] theorem State.setCount_params (n : BitVec 8) : (s.setCount n).params = s.params := rfl
@[simp] theorem State.setCount_frames (n : BitVec 8) : (s.setCount n).obs.frames = s.obs.frames := rfl
@[simp] theorem State.setCount_cv (n : BitVec 8) : (s.setCount n).obs.cv = s.obs.cv := rfl
@[simp] theorem State.setCount_lines (n : BitVec 8) : (s.setCount n).obs.lines = s.obs.lines := rfl
@[simp] theorem State.setCount_events (n : BitVec 8) : (s.setCount n).obs.events = s.obs.events := rfl

/-! ## setPrimaryGate -/

@[simp] theorem State.setPrimaryGate_ch0 (b : Bool) : (s.setPrimaryGate b).ch0 = { s.ch0 with gate := b } := rfl
@[simp] theorem State.setPrimaryGate_ch (b : Bool) : (s.setPrimaryGate b).ch = s.ch := rfl
@[simp] theorem State.setPrimaryGate_clk (b : Bool) : (s.setPrimaryGate b).clk = s.clk := rfl
@[simp] theorem State.setPrimaryGate_transportRunning (b : Bool) : (s.setPrimaryGate b).transportRunning = s.transportRunning := rfl
@[simp] theorem State.setPrimaryGate_rdata (b : Bool) : (s.setPrimaryGate b).rdata = s.rdata := rfl
@[simp] theorem State.setPrimaryGate_now (b : Bool) : (s.setPrimaryGate b).now = s.now := rfl
@[simp] theorem State.setPrimaryGate_pos (b : Bool) : (s.setPrimaryGate b).pos = s.pos := rfl
@[simp] theorem State.setPrimaryGate_input (b : Bool) : (s.setPrimaryGate b).input = s.input := rfl
@[simp] theorem State.setPrimaryGate_params (b : Bool) : (s.setPrimaryGate b).params = s.params := rfl
@[simp] theorem State.setPrimaryGate_frames (b : Bool) : (s.setPrimaryGate b).obs.frames = s.obs.frames := rfl
@[simp] theorem State.setPrimaryGate_cv (b : Bool) : (s.setPrimaryGate b).obs.cv = s.obs.cv := rfl
@[simp] theorem State.setPrimaryGate_lines (b : Bool) : (s.setPrimaryGate b).obs.lines = s.obs.lines := rfl
@[simp] theorem State.setPrimaryGate_events (b : Bool) : (s.setPrimaryGate b).obs.events = s.obs.events ++ lineChange (.gate 0) s.ch0.gate b := rfl

/-! ## setSlide -/

@[simp] theorem State.setSlide_ch0 (b : Bool) : (s.setSlide b).ch0 = { s.ch0 with slide := b } := rfl
@[simp] theorem State.setSlide_ch (b : Bool) : (s.setSlide b).ch = s.ch := rfl
@[simp] theorem State.setSlide_clk (b : Bool) : (s.setSlide b).clk = s.clk := rfl
@[simp] theorem State.setSlide_transportRunning (b : Bool) : (s.setSlide b).transportRunning = s.transportRunning := rfl
@[simp] theorem State.setSlide_rdata (b : Bool) : (s.setSlide b).rdata = s.rdata := rfl
@[simp] theorem State.setSlide_now (b : Bool) : (s.setSlide b).now = s.now := rfl
@[simp] theorem State.setSlide_pos (b : Bool) : (s.setSlide b).pos = s.pos := rfl
@[simp] theorem State.setSlide_input (b : Bool) : (s.setSlide b).input = s.input := rfl
@[simp] theorem State.setSlide_params (b : Bool) : (s.setSlide b).params = s.params := rfl
@[simp] theorem State.setSlide_frames (b : Bool) : (s.setSlide b).obs.frames = s.obs.frames := rfl
@[simp] theorem State.setSlide_cv (b : Bool) : (s.setSlide b).obs.cv = s.obs.cv := rfl
@[simp] theorem State.setSlide_lines (b : Bool) : (s.setSlide b).obs.lines = s.obs.lines := rfl
@[simp] theorem State.setSlide_events (b : Bool) : (s.setSlide b).obs.events = s.obs.events ++ lineChange .slide s.ch0.slide b := rfl

/-! ## setAccent -/

@[simp] theorem State.setAccent_ch0 (b : Bool) : (s.setAccent b).ch0 = { s.ch0 with accent := b } := rfl
@[simp] theorem State.setAccent_ch (b : Bool) : (s.setAccent b).ch = s.ch := rfl
@[simp] theorem State.setAccent_clk (b : Bool) : (s.setAccent b).clk = s.clk := rfl
@[simp] theorem State.setAccent_transportRunning (b : Bool) : (s.setAccent b).transportRunning = s.transportRunning := rfl
@[simp] theorem State.setAccent_rdata (b : Bool) : (s.setAccent b).rdata = s.rdata := rfl
@[simp] theorem State.setAccent_now (b : Bool) : (s.setAccent b).now = s.now := rfl
@[simp] theorem State.setAccent_pos (b : Bool) : (s.setAccent b).pos = s.pos := rfl
@[simp] theorem State.setAccent_input (b : Bool) : (s.setAccent b).input = s.input := rfl
@[simp] theorem State.setAccent_params (b : Bool) : (s.setAccent b).params = s.params := rfl
@[simp] theorem State.setAccent_frames (b : Bool) : (s.setAccent b).obs.frames = s.obs.frames := rfl
@[simp] theorem State.setAccent_cv (b : Bool) : (s.setAccent b).obs.cv = s.obs.cv := rfl
@[simp] theorem State.setAccent_lines (b : Bool) : (s.setAccent b).obs.lines = s.obs.lines := rfl
@[simp] theorem State.setAccent_events (b : Bool) : (s.setAccent b).obs.events = s.obs.events ++ lineChange .accent s.ch0.accent b := rfl

/-! ## setSecondaryGate -/

@[simp] theorem State.setSecondaryGate_ch0 (i : Fin 3) (b : Bool) : (s.setSecondaryGate i b).ch0 = s.ch0 := rfl
@[simp] theorem State.setSecondaryGate_ch (i : Fin 3) (b : Bool) : (s.setSecondaryGate i b).ch = s.ch.set i.val ⟨b⟩ := rfl
@[simp] theorem State.setSecondaryGate_clk (i : Fin 3) (b : Bool) : (s.setSecondaryGate i b).clk = s.clk := rfl
@[simp] theorem State.setSecondaryGate_transportRunning (i : Fin 3) (b : Bool) : (s.setSecondaryGate i b).transportRunning = s.transportRunning := rfl
@[simp] theorem State.setSecondaryGate_rdata (i : Fin 3) (b : Bool) : (s.setSecondaryGate i b).rdata = s.rdata := rfl
@[simp] theorem State.setSecondaryGate_now (i : Fin 3) (b : Bool) : (s.setSecondaryGate i b).now = s.now := rfl
@[simp] theorem State.setSecondaryGate_pos (i : Fin 3) (b : Bool) : (s.setSecondaryGate i b).pos = s.pos := rfl
@[simp] theorem State.setSecondaryGate_input (i : Fin 3) (b : Bool) : (s.setSecondaryGate i b).input = s.input := rfl
@[simp] theorem State.setSecondaryGate_params (i : Fin 3) (b : Bool) : (s.setSecondaryGate i b).params = s.params := rfl
@[simp] theorem State.setSecondaryGate_frames (i : Fin 3) (b : Bool) : (s.setSecondaryGate i b).obs.frames = s.obs.frames := rfl
@[simp] theorem State.setSecondaryGate_cv (i : Fin 3) (b : Bool) : (s.setSecondaryGate i b).obs.cv = s.obs.cv := rfl
@[simp] theorem State.setSecondaryGate_lines (i : Fin 3) (b : Bool) : (s.setSecondaryGate i b).obs.lines = s.obs.lines := rfl
@[simp] theorem State.setSecondaryGate_events (i : Fin 3) (b : Bool) : (s.setSecondaryGate i b).obs.events = s.obs.events ++ lineChange (.gate i.succ) s.ch[i.val].gate b := rfl

/-! ## dacFrame -/

@[simp] theorem State.dacFrame_ch0 (d : Fin 4) (w : DacWord) : (s.dacFrame d w).ch0 = s.ch0 := rfl
@[simp] theorem State.dacFrame_ch (d : Fin 4) (w : DacWord) : (s.dacFrame d w).ch = s.ch := rfl
@[simp] theorem State.dacFrame_clk (d : Fin 4) (w : DacWord) : (s.dacFrame d w).clk = s.clk := rfl
@[simp] theorem State.dacFrame_transportRunning (d : Fin 4) (w : DacWord) : (s.dacFrame d w).transportRunning = s.transportRunning := rfl
@[simp] theorem State.dacFrame_rdata (d : Fin 4) (w : DacWord) : (s.dacFrame d w).rdata = s.rdata := rfl
@[simp] theorem State.dacFrame_now (d : Fin 4) (w : DacWord) : (s.dacFrame d w).now = s.now := rfl
@[simp] theorem State.dacFrame_pos (d : Fin 4) (w : DacWord) : (s.dacFrame d w).pos = s.pos := rfl
@[simp] theorem State.dacFrame_input (d : Fin 4) (w : DacWord) : (s.dacFrame d w).input = s.input := rfl
@[simp] theorem State.dacFrame_params (d : Fin 4) (w : DacWord) : (s.dacFrame d w).params = s.params := rfl
@[simp] theorem State.dacFrame_frames (d : Fin 4) (w : DacWord) : (s.dacFrame d w).obs.frames = s.obs.frames ++ [⟨d, w⟩] := rfl
@[simp] theorem State.dacFrame_cv (d : Fin 4) (w : DacWord) : (s.dacFrame d w).obs.cv = cvAfterFrame s.obs.cv ⟨d, w⟩ := rfl
@[simp] theorem State.dacFrame_lines (d : Fin 4) (w : DacWord) : (s.dacFrame d w).obs.lines = s.obs.lines := rfl
@[simp] theorem State.dacFrame_events (d : Fin 4) (w : DacWord) : (s.dacFrame d w).obs.events = s.obs.events ++ frameActions ⟨d, w⟩ := rfl

/-! ## forEachClock -/

@[simp] theorem State.forEachClock_ch0 (f : ClockChannel → Nat → ClockChannel × List Event) : (s.forEachClock f).ch0 = s.ch0 := rfl
@[simp] theorem State.forEachClock_ch (f : ClockChannel → Nat → ClockChannel × List Event) : (s.forEachClock f).ch = s.ch := rfl
@[simp] theorem State.forEachClock_clk (f : ClockChannel → Nat → ClockChannel × List Event) : (s.forEachClock f).clk = (sweep f 0 s.clk).1 := rfl
@[simp] theorem State.forEachClock_transportRunning (f : ClockChannel → Nat → ClockChannel × List Event) : (s.forEachClock f).transportRunning = s.transportRunning := rfl
@[simp] theorem State.forEachClock_rdata (f : ClockChannel → Nat → ClockChannel × List Event) : (s.forEachClock f).rdata = s.rdata := rfl
@[simp] theorem State.forEachClock_now (f : ClockChannel → Nat → ClockChannel × List Event) : (s.forEachClock f).now = s.now := rfl
@[simp] theorem State.forEachClock_pos (f : ClockChannel → Nat → ClockChannel × List Event) : (s.forEachClock f).pos = s.pos := rfl
@[simp] theorem State.forEachClock_input (f : ClockChannel → Nat → ClockChannel × List Event) : (s.forEachClock f).input = s.input := rfl
@[simp] theorem State.forEachClock_params (f : ClockChannel → Nat → ClockChannel × List Event) : (s.forEachClock f).params = s.params := rfl
@[simp] theorem State.forEachClock_frames (f : ClockChannel → Nat → ClockChannel × List Event) : (s.forEachClock f).obs.frames = s.obs.frames := rfl
@[simp] theorem State.forEachClock_cv (f : ClockChannel → Nat → ClockChannel × List Event) : (s.forEachClock f).obs.cv = s.obs.cv := rfl
@[simp] theorem State.forEachClock_lines (f : ClockChannel → Nat → ClockChannel × List Event) : (s.forEachClock f).obs.lines = s.obs.lines := rfl
@[simp] theorem State.forEachClock_events (f : ClockChannel → Nat → ClockChannel × List Event) : (s.forEachClock f).obs.events = s.obs.events ++ (sweep f 0 s.clk).2 := rfl

/-! ## setTransport -/

@[simp] theorem State.setTransport_ch0 (b : Bool) : (s.setTransport b).ch0 = s.ch0 := rfl
@[simp] theorem State.setTransport_ch (b : Bool) : (s.setTransport b).ch = s.ch := rfl
@[simp] theorem State.setTransport_clk (b : Bool) : (s.setTransport b).clk = s.clk := rfl
@[simp] theorem State.setTransport_transportRunning (b : Bool) : (s.setTransport b).transportRunning = b := rfl
@[simp] theorem State.setTransport_rdata (b : Bool) : (s.setTransport b).rdata = s.rdata := rfl
@[simp] theorem State.setTransport_now (b : Bool) : (s.setTransport b).now = s.now := rfl
@[simp] theorem State.setTransport_pos (b : Bool) : (s.setTransport b).pos = s.pos := rfl
@[simp] theorem State.setTransport_input (b : Bool) : (s.setTransport b).input = s.input := rfl
@[simp] theorem State.setTransport_params (b : Bool) : (s.setTransport b).params = s.params := rfl
@[simp] theorem State.setTransport_frames (b : Bool) : (s.setTransport b).obs.frames = s.obs.frames := rfl
@[simp] theorem State.setTransport_cv (b : Bool) : (s.setTransport b).obs.cv = s.obs.cv := rfl
@[simp] theorem State.setTransport_lines (b : Bool) : (s.setTransport b).obs.lines = s.obs.lines := rfl
@[simp] theorem State.setTransport_events (b : Bool) : (s.setTransport b).obs.events = s.obs.events := rfl

/-! ## setRdata -/

@[simp] theorem State.setRdata_ch0 (v : Byte) : (s.setRdata v).ch0 = s.ch0 := rfl
@[simp] theorem State.setRdata_ch (v : Byte) : (s.setRdata v).ch = s.ch := rfl
@[simp] theorem State.setRdata_clk (v : Byte) : (s.setRdata v).clk = s.clk := rfl
@[simp] theorem State.setRdata_transportRunning (v : Byte) : (s.setRdata v).transportRunning = s.transportRunning := rfl
@[simp] theorem State.setRdata_rdata (v : Byte) : (s.setRdata v).rdata = v := rfl
@[simp] theorem State.setRdata_now (v : Byte) : (s.setRdata v).now = s.now := rfl
@[simp] theorem State.setRdata_pos (v : Byte) : (s.setRdata v).pos = s.pos := rfl
@[simp] theorem State.setRdata_input (v : Byte) : (s.setRdata v).input = s.input := rfl
@[simp] theorem State.setRdata_params (v : Byte) : (s.setRdata v).params = s.params := rfl
@[simp] theorem State.setRdata_frames (v : Byte) : (s.setRdata v).obs.frames = s.obs.frames := rfl
@[simp] theorem State.setRdata_cv (v : Byte) : (s.setRdata v).obs.cv = s.obs.cv := rfl
@[simp] theorem State.setRdata_lines (v : Byte) : (s.setRdata v).obs.lines = s.obs.lines := rfl
@[simp] theorem State.setRdata_events (v : Byte) : (s.setRdata v).obs.events = s.obs.events := rfl

/-! ## setClock -/

@[simp] theorem State.setClock_ch0 (j : Nat) (c : ClockChannel) : (s.setClock j c).ch0 = s.ch0 := rfl
@[simp] theorem State.setClock_ch (j : Nat) (c : ClockChannel) : (s.setClock j c).ch = s.ch := rfl
@[simp] theorem State.setClock_clk (j : Nat) (c : ClockChannel) : (s.setClock j c).clk = s.clk.set j c := rfl
@[simp] theorem State.setClock_transportRunning (j : Nat) (c : ClockChannel) : (s.setClock j c).transportRunning = s.transportRunning := rfl
@[simp] theorem State.setClock_rdata (j : Nat) (c : ClockChannel) : (s.setClock j c).rdata = s.rdata := rfl
@[simp] theorem State.setClock_now (j : Nat) (c : ClockChannel) : (s.setClock j c).now = s.now := rfl
@[simp] theorem State.setClock_pos (j : Nat) (c : ClockChannel) : (s.setClock j c).pos = s.pos := rfl
@[simp] theorem State.setClock_input (j : Nat) (c : ClockChannel) : (s.setClock j c).input = s.input := rfl
@[simp] theorem State.setClock_params (j : Nat) (c : ClockChannel) : (s.setClock j c).params = s.params := rfl
@[simp] theorem State.setClock_frames (j : Nat) (c : ClockChannel) : (s.setClock j c).obs.frames = s.obs.frames := rfl
@[simp] theorem State.setClock_cv (j : Nat) (c : ClockChannel) : (s.setClock j c).obs.cv = s.obs.cv := rfl
@[simp] theorem State.setClock_lines (j : Nat) (c : ClockChannel) : (s.setClock j c).obs.lines = s.obs.lines := rfl
@[simp] theorem State.setClock_events (j : Nat) (c : ClockChannel) : (s.setClock j c).obs.events = s.obs.events := rfl

/-! ## accept -/

@[simp] theorem State.accept_ch0 (c : Command) (rest : List Input) : (s.accept c rest).ch0 = s.ch0 := rfl
@[simp] theorem State.accept_ch (c : Command) (rest : List Input) : (s.accept c rest).ch = s.ch := rfl
@[simp] theorem State.accept_clk (c : Command) (rest : List Input) : (s.accept c rest).clk = s.clk := rfl
@[simp] theorem State.accept_transportRunning (c : Command) (rest : List Input) : (s.accept c rest).transportRunning = s.transportRunning := rfl
@[simp] theorem State.accept_rdata (c : Command) (rest : List Input) : (s.accept c rest).rdata = s.rdata := rfl
@[simp] theorem State.accept_now (c : Command) (rest : List Input) : (s.accept c rest).now = c.stamp := rfl
@[simp] theorem State.accept_pos (c : Command) (rest : List Input) : (s.accept c rest).pos = s.pos := rfl
@[simp] theorem State.accept_input (c : Command) (rest : List Input) : (s.accept c rest).input = rest := rfl
@[simp] theorem State.accept_params (c : Command) (rest : List Input) : (s.accept c rest).params = s.params := rfl
@[simp] theorem State.accept_frames (c : Command) (rest : List Input) : (s.accept c rest).obs.frames = s.obs.frames := rfl
@[simp] theorem State.accept_cv (c : Command) (rest : List Input) : (s.accept c rest).obs.cv = s.obs.cv := rfl
@[simp] theorem State.accept_lines (c : Command) (rest : List Input) : (s.accept c rest).obs.lines = s.obs.lines := rfl
@[simp] theorem State.accept_events (c : Command) (rest : List Input) : (s.accept c rest).obs.events = s.obs.events := rfl

/-! ## retire -/

@[simp] theorem State.retire_ch0 : (s.retire).ch0 = s.ch0 := rfl
@[simp] theorem State.retire_ch : (s.retire).ch = s.ch := rfl
@[simp] theorem State.retire_clk : (s.retire).clk = s.clk := rfl
@[simp] theorem State.retire_transportRunning : (s.retire).transportRunning = s.transportRunning := rfl
@[simp] theorem State.retire_rdata : (s.retire).rdata = s.rdata := rfl
@[simp] theorem State.retire_now : (s.retire).now = s.now := rfl
@[simp] theorem State.retire_pos : (s.retire).pos = s.pos + 1 := rfl
@[simp] theorem State.retire_input : (s.retire).input = s.input := rfl
@[simp] theorem State.retire_params : (s.retire).params = s.params := rfl
@[simp] theorem State.retire_frames : (s.retire).obs.frames = s.obs.frames := rfl
@[simp] theorem State.retire_cv : (s.retire).obs.cv = s.obs.cv := rfl
@[simp] theorem State.retire_lines : (s.retire).obs.lines = s.obs.lines ++ [s.lines] := rfl
@[simp] theorem State.retire_events : (s.retire).obs.events = s.obs.events := rfl

/-! ## The DAC helpers are frames -/

@[simp] theorem State.sendVoltage_eq (d : Fin 4) (sub : SubChannel) (code : BitVec 16) :
    s.sendVoltage d sub code = s.dacFrame d (dacWord sub code) := rfl
@[simp] theorem State.writePitch_eq (k : Fin 4) (pitch : Data7) :
    s.writePitch k pitch = s.dacFrame k (dacWord .A ((pitchCode s.params pitch.toNat).setWidth 16)) := rfl
@[simp] theorem State.writeSecondary_eq (k : Fin 4) (code : Code) :
    s.writeSecondary k code = s.dacFrame k (dacWord .B (code.setWidth 16)) := rfl

end Sys2Proof.Machine
end

