-- ==== Sys2Proof/Laws/Ops.lean ====
section
/-! SUPPORT. One lemma per shared operation, saying what it does: the callers cite these and unfold nothing. -/

namespace Sys2Proof.Machine

/-! ## Counts, routes, tables -/

theorem satInc_toNat (x max : BitVec 8) : (satInc x max).toNat = min (x.toNat + 1) max.toNat := by
  have := max.isLt
  simp only [satInc, BitVec.toNat_ofNat]
  omega

theorem satDec_toNat (x : BitVec 8) : (satDec x).toNat = x.toNat - 1 := by
  have := x.isLt
  simp only [satDec, BitVec.toNat_ofNat]
  omega

theorem route_primary : route 0 = .primary := rfl

theorem route_secondary (i : Fin 3) : route (BitVec.ofNat 4 (i.val + 1)) = .secondary i := by
  revert i; decide

theorem route_ignored {c : ChannelNibble} (h : 4 ≤ c.toNat) : route c = .ignored := by
  revert c; decide

/-- Every nibble goes to the primary channel, to a secondary one, or nowhere (R140). -/
theorem route_cases (c : ChannelNibble) :
    (c = 0 ∧ route c = .primary) ∨ (∃ i : Fin 3, c.toNat = i.val + 1 ∧ route c = .secondary i) ∨
      (4 ≤ c.toNat ∧ route c = .ignored) := by
  revert c; decide

theorem quantize_range (p : Int) : 0 ≤ quantize p ∧ quantize p ≤ 120 := by
  unfold quantize clampInt noteRef vtLast
  split
  · omega
  · split <;> omega

theorem quantize_mono {p q : Int} (h : p ≤ q) : quantize p ≤ quantize q := by
  unfold quantize clampInt noteRef vtLast
  split <;> split <;> (try split) <;> (try split) <;> omega

/-- `pitchCode` reads the table at the quantized index (R123). -/
theorem pitchCode_eq (p : Params) (pitch : Int) (i : Fin 121) (h : (i.val : Int) = quantize pitch) :
    pitchCode p pitch = p.vt[i] := by
  have hi := i.isLt
  have : min (quantize pitch).toNat 120 = i.val := by omega
  simp only [pitchCode, voltageAt, this, Fin.getElem_fin]

theorem requestedIndex_toNat (r : Byte) : ((requestedIndex r).toNat : Int) = clampInt r.toInt 0 7 := by
  revert r; decide

theorem ticksPerPulse_bounds (i : BitVec 3) : 6 ≤ ticksPerPulse i ∧ ticksPerPulse i ≤ 768 := by
  revert i; decide

theorem ClockChannel.threshold_bounds (c : ClockChannel) : 6 ≤ c.threshold ∧ c.threshold ≤ 768 :=
  ticksPerPulse_bounds c.divisionIndex

/-! ## The DAC word -/

theorem dacWord_A (code : Code) : dacWord .A (code.setWidth 16) = 0x3000#16 ||| code.setWidth 16 := by
  ext i hi
  simp only [dacWord, BitVec.getElem_or, BitVec.getElem_and, BitVec.getElem_setWidth]
  interval_cases i <;> simp

theorem dacWord_B (code : Code) : dacWord .B (code.setWidth 16) = 0xB000#16 ||| code.setWidth 16 := by
  ext i hi
  simp only [dacWord, BitVec.getElem_or, BitVec.getElem_and, BitVec.getElem_setWidth]
  interval_cases i <;> simp

theorem subOf_dacWord (sub : SubChannel) (code : BitVec 16) : subOf (dacWord sub code) = sub := by
  cases sub <;> simp [subOf, dacWord]

theorem codeOf_dacWord (sub : SubChannel) (code : BitVec 16) : codeOf (dacWord sub code) = code.setWidth 12 := by
  ext i hi
  cases sub <;> simp only [codeOf, dacWord, BitVec.getElem_extractLsb', BitVec.getLsbD_or, BitVec.getLsbD_and,
    BitVec.getElem_setWidth] <;> interval_cases i <;> simp

theorem dacWord_legal (sub : SubChannel) (code : BitVec 16) : dacWord sub code &&& 0x7000#16 = 0x3000#16 := by
  ext i hi
  cases sub <;> simp only [dacWord, BitVec.getElem_or, BitVec.getElem_and] <;> interval_cases i <;> simp

/-! ## Reading the trace -/

@[simp] theorem busTrace_nil : busTrace [] = [] := rfl
@[simp] theorem busTrace_append (es fs : List Event) : busTrace (es ++ fs) = busTrace es ++ busTrace fs := by
  simp [busTrace]
@[simp] theorem busTrace_frameActions (f : Frame) : busTrace (frameActions f) = frameActions f := rfl

/-- A write that does not change the level is no event (log 9). -/
@[simp] theorem lineChange_self (l : Line) (b : Bool) : lineChange l b b = [] := if_pos rfl

@[simp] theorem busTrace_lineChange (l : Line) (old new : Bool) : busTrace (lineChange l old new) = [] := by
  unfold lineChange; split <;> rfl

@[simp] theorem busTrace_fireEvents (policy : Retrigger) (j : Nat) (active : Bool) :
    busTrace (fireEvents policy j active) = [] := by
  cases policy <;> cases active <;> rfl

@[simp] theorem csAfter_append (d : Fin 4) (es fs : List Event) :
    csAfter d (es ++ fs) = fs.foldl (csAfterEvent d) (csAfter d es) := by
  simp [csAfter]

/-- A frame leaves every chip select as it was at a boundary: high (R43). -/
theorem cs_frameActions (d : Fin 4) (f : Frame) (level : Bool) (h : level = true) :
    (frameActions f).foldl (csAfterEvent d) level = true := by
  subst h
  by_cases hd : f.device = d <;> simp [frameActions, csAfterEvent, hd]

/-- Events that are no bus actions leave the chip selects alone. -/
theorem cs_of_no_bus (d : Fin 4) (es : List Event) (level : Bool) (h : busTrace es = []) :
    es.foldl (csAfterEvent d) level = level := by
  induction es generalizing level with
  | nil => rfl
  | cons e es ih =>
    cases e with
    | line l v => exact ih level h
    | csLow d' => exact absurd h (by simp [busTrace, Event.isBus])
    | csHigh d' => exact absurd h (by simp [busTrace, Event.isBus])
    | transfer b => exact absurd h (by simp [busTrace, Event.isBus])

@[simp] theorem lineAfter_append (l : Line) (es fs : List Event) :
    lineAfter l (es ++ fs) = fs.foldl (lineAfterEvent l) (lineAfter l es) := by
  simp [lineAfter]

theorem line_frameActions (l : Line) (f : Frame) (level : Bool) :
    (frameActions f).foldl (lineAfterEvent l) level = level := rfl

/-- After a change event the line is where the change put it; the other lines are where they were. -/
theorem line_lineChange (l l' : Line) (old new level : Bool) (h : l' = l → level = old) :
    (lineChange l' old new).foldl (lineAfterEvent l) level = if l' = l then new else level := by
  unfold lineChange
  by_cases hl : l' = l
  · have := h hl
    subst this
    split <;> simp_all [lineAfterEvent]
  · split <;> simp [lineAfterEvent, hl]

/-- After a fire the PULSE line is high, whatever the retrigger policy (R174); the other lines are where they were. -/
theorem line_fireEvents (l : Line) (policy : Retrigger) (j : Nat) (active level : Bool)
    (h : Line.pulse j = l → level = active) :
    (fireEvents policy j active).foldl (lineAfterEvent l) level = if Line.pulse j = l then true else level := by
  by_cases hl : Line.pulse j = l
  · have := h hl
    subst this
    cases policy <;> cases level <;> simp [fireEvents, lineAfterEvent, hl]
  · cases policy <;> cases active <;> simp [fireEvents, lineAfterEvent, hl]

/-! ## The sweep over clock channels -/

@[simp] theorem sweep_length (f : ClockChannel → Nat → ClockChannel × List Event) (j : Nat)
    (cs : List ClockChannel) : (sweep f j cs).1.length = cs.length := by
  induction cs generalizing j with
  | nil => rfl
  | cons c cs ih => simp [sweep, ih]

/-- Channel `k` of a sweep depends on channel `k` alone (R176). -/
theorem sweep_getElem? (f : ClockChannel → Nat → ClockChannel × List Event) (j k : Nat) (cs : List ClockChannel) :
    (sweep f j cs).1[k]? = cs[k]?.map fun c => (f c (j + k)).1 := by
  induction cs generalizing j k with
  | nil => rfl
  | cons c cs ih =>
    cases k with
    | zero => rfl
    | succ k =>
      rw [show j + (k + 1) = j + 1 + k by omega]
      simp only [sweep, List.getElem?_cons_succ, ih]

/-- Every record after a sweep comes from a record before it. -/
theorem mem_sweep {f : ClockChannel → Nat → ClockChannel × List Event} {j : Nat} {cs : List ClockChannel}
    {d : ClockChannel} (h : d ∈ (sweep f j cs).1) : ∃ c ∈ cs, ∃ k, d = (f c k).1 := by
  induction cs generalizing j with
  | nil => cases h
  | cons c cs ih =>
    rcases List.mem_cons.mp h with rfl | h
    · exact ⟨c, by simp, j, rfl⟩
    · obtain ⟨c', hc, k, hk⟩ := ih h
      exact ⟨c', by simp [hc], k, hk⟩

/-- A sweep puts nothing on the bus if no channel's part does. -/
theorem busTrace_sweep (f : ClockChannel → Nat → ClockChannel × List Event) (h : ∀ c j, busTrace (f c j).2 = [])
    (j : Nat) (cs : List ClockChannel) : busTrace (sweep f j cs).2 = [] := by
  induction cs generalizing j with
  | nil => rfl
  | cons c cs ih => simp [sweep, h, ih]

/-- The lines after a sweep: `PULSE[k]` of each swept channel ends at that channel's `pulseActive`, if each channel's
part takes its own line there and leaves the others alone. -/
theorem line_sweep (f : ClockChannel → Nat → ClockChannel × List Event)
    (h : ∀ c j l level, (Line.pulse j = l → level = c.pulseActive) →
      (f c j).2.foldl (lineAfterEvent l) level = if Line.pulse j = l then (f c j).1.pulseActive else level)
    (l : Line) (j : Nat) (cs : List ClockChannel) (level : Bool)
    (hl : ∀ k c, cs[k]? = some c → Line.pulse (j + k) = l → level = c.pulseActive) :
    (sweep f j cs).2.foldl (lineAfterEvent l) level =
      match l with
      | .pulse n => if j ≤ n then (((sweep f j cs).1[n - j]?).map (·.pulseActive)).getD level else level
      | _ => level := by
  induction cs generalizing j level with
  | nil => cases l <;> simp [sweep]
  | cons c cs ih =>
    have h0 := h c j l level (hl 0 c rfl)
    simp only [sweep, List.foldl_append, h0]
    rw [ih (j + 1)]
    · cases l with
      | pulse n =>
        by_cases hn : j = n
        · subst hn; simp
        · have : ¬ (Line.pulse j = Line.pulse n) := by simpa using hn
          simp only [this, if_false]
          by_cases hle : j ≤ n
          · obtain ⟨m, rfl⟩ : ∃ m, n = j + 1 + m := ⟨n - (j + 1), by omega⟩
            have e1 : j + 1 + m - j = m + 1 := by omega
            simp [e1, show j ≤ j + 1 + m by omega]
          · simp [hle, show ¬ (j + 1 ≤ n) by omega]
      | gate k => simp
      | slide => simp
      | accent => simp
    · intro k d hd hk
      have hne : ¬ (Line.pulse j = l) := by
        subst hk
        simp
        omega
      simp only [hne, if_false]
      exact hl (k + 1) d (by simpa using hd) (by rw [← hk]; congr 1; omega)

/-! ## The parts of the clock commands -/

/-- A tick fires the channel or counts; nothing else (R175). -/
theorem ClockChannel.tick_cases (c : ClockChannel) (policy : Retrigger) (now : Timestamp) (j : Nat) :
    (c.threshold ≤ (c.tickCount + 1).toNat ∧
      c.tick policy now j = ({ c with tickCount := 0, pulseActive := true, pulseStartTime := now },
        fireEvents policy j c.pulseActive)) ∨
    ((c.tickCount + 1).toNat < c.threshold ∧ c.tick policy now j = ({ c with tickCount := c.tickCount + 1 }, [])) := by
  by_cases h : c.threshold ≤ (c.tickCount + 1).toNat
  · exact .inl ⟨h, by simp [tick, threshold, zeroCount, fire] at h ⊢; intro h'; omega⟩
  · exact .inr ⟨by omega, by simp [tick, threshold] at h ⊢; intro h'; omega⟩

/-- POLL retracts an expired pulse, and leaves every other channel as it is (R190). -/
theorem ClockChannel.expire_cases (c : ClockChannel) (now : Timestamp) (j : Nat) :
    ((c.pulseActive = true ∧ 10 < (now - c.pulseStartTime).toNat) ∧
      c.expire now j = ({ c with pulseActive := false }, [.line (.pulse j) false])) ∨
    (¬ (c.pulseActive = true ∧ 10 < (now - c.pulseStartTime).toNat) ∧ c.expire now j = (c, [])) := by
  by_cases h : c.pulseActive = true ∧ 10 < (now - c.pulseStartTime).toNat
  · refine .inl ⟨h, ?_⟩
    simp only [expire, elapsed, pulseWidth, h, and_self, if_true, retract, retractEvents, lineChange]
    rfl
  · exact .inr ⟨h, by simp only [expire, elapsed, pulseWidth, h, if_false]⟩

theorem ClockChannel.restart_eq (c : ClockChannel) (policy : Retrigger) (now : Timestamp) (j : Nat) :
    c.restart policy now j = ({ c with tickCount := 0, pulseActive := true, pulseStartTime := now },
      fireEvents policy j c.pulseActive) := rfl

theorem ClockChannel.halt_eq (c : ClockChannel) (j : Nat) :
    c.halt j = ({ c with tickCount := 0, pulseActive := false }, lineChange (.pulse j) c.pulseActive false) := rfl

/-! ## The line levels at a command boundary -/

@[simp] theorem State.lines_gate_zero (s : State) : s.lines.gate[0] = s.ch0.gate := by
  simp [State.lines, State.gateLevel]
@[simp] theorem State.lines_gate_succ (s : State) (k : Fin 3) : s.lines.gate[k.val + 1] = s.ch[k].gate := by
  revert k
  simp [Fin.forall_fin_succ, State.lines, State.gateLevel]
@[simp] theorem State.lines_slide (s : State) : s.lines.slide = s.ch0.slide := rfl
@[simp] theorem State.lines_accent (s : State) : s.lines.accent = s.ch0.accent := rfl
@[simp] theorem State.lines_pulse (s : State) : s.lines.pulse = s.clk.map (·.pulseActive) := rfl

/-! ## The events of a sweep -/

/-- Every event of a sweep comes from the part of one channel. -/
theorem mem_sweep_events {f : ClockChannel → Nat → ClockChannel × List Event} {j : Nat} {cs : List ClockChannel}
    {e : Event} (h : e ∈ (sweep f j cs).2) : ∃ k c, cs[k]? = some c ∧ e ∈ (f c (j + k)).2 := by
  induction cs generalizing j with
  | nil => cases h
  | cons c cs ih =>
    rcases List.mem_append.mp h with h | h
    · exact ⟨0, c, rfl, h⟩
    · obtain ⟨k, c', hc, he⟩ := ih h
      exact ⟨k + 1, c', hc, by rwa [show j + (k + 1) = j + 1 + k by omega]⟩

/-- Under EXTEND a fire is the rise of a line that was low, or no event (R174). -/
theorem mem_fireEvents_extend {j : Nat} {active : Bool} {e : Event} (h : e ∈ fireEvents .extend j active) :
    active = false ∧ e = .line (.pulse j) true := by
  cases active
  · exact ⟨rfl, by simpa [fireEvents] using h⟩
  · simp [fireEvents] at h

end Sys2Proof.Machine
end

