-- ==== Sys2Proof/Laws/Step.lean ====
section
/-! SUPPORT. What a step and an `exec` can do, said once: every invariant is derived from these. -/

namespace Sys2Proof.Machine

/-- A step that answers a next state took a reset, or a command whose word decodes to an instruction that completes. -/
theorem step_cases {s t : State} (h : step s = .next t) :
    (∃ rest, s.input = .reset :: rest ∧ t = s.hostReset rest) ∨
    (∃ c rest i u, s.input = .command c :: rest ∧ decode s.params.nClkTotal c.word = .ok i ∧
      exec i (s.accept c rest) = .next u ∧ t = u.retire) := by
  unfold step State.fetch at h
  split at h
  · cases h
  · rename_i u hf
    split at hf
    · cases hf
    · rename_i rest hi
      cases hf; cases h
      exact .inl ⟨rest, hi, rfl⟩
    · split at hf <;> cases hf
  · rename_i i u hf
    split at hf
    · cases hf
    · cases hf
    · rename_i c rest hi
      split at hf
      · rename_i i' hd
        cases hf
        split at h
        · rename_i v hv
          cases h
          exact .inr ⟨c, rest, _, v, hi, hd, hv, rfl⟩
        · cases h
        · cases h
      · cases hf

/-- A command at the head of the input whose word decodes: the step is its `exec`, retired. -/
theorem step_command {s : State} {c : Command} {rest : List Input} {i : Instr} (hi : s.input = .command c :: rest)
    (hd : decode s.params.nClkTotal c.word = .ok i) :
    step s = match exec i (s.accept c rest) with
      | .next u => .next u.retire
      | .fault f => .fault f
      | .refused r => .refused r := by
  have hf : s.fetch = .run i (s.accept c rest) := by simp only [State.fetch, hi, hd]
  unfold step
  exact hf ▸ rfl

/-- A command at the head of the input whose word does not decode is refused by its reason. -/
theorem step_refused {s : State} {c : Command} {rest : List Input} {r : DecodeReason}
    (hi : s.input = .command c :: rest) (hd : decode s.params.nClkTotal c.word = .error r) :
    step s = .refused (refusalOf r) := by
  simp only [step, State.fetch, hi, hd]

/-- What each command does, as the state it leaves: `exec` never faults, and refuses only a clock channel without a
record. -/
theorem exec_cases {i : Instr} {s t : State} (h : exec i s = .next t) :
    (∃ p v, i = .noteOn 0 p v ∧ t = noteOnPrimary p v s) ∨
    (∃ k : Fin 3, ∃ c p v, i = .noteOn c p v ∧ c.toNat = k.val + 1 ∧ t = noteOnSecondary k p v s) ∨
    (∃ p v, i = .noteOff 0 p v ∧ t = noteOffPrimary s) ∨
    (∃ k : Fin 3, ∃ c p v, i = .noteOff c p v ∧ c.toNat = k.val + 1 ∧ t = noteOffSecondary k s) ∨
    (∃ c p v, (i = .noteOn c p v ∨ i = .noteOff c p v) ∧ 4 ≤ c.toNat ∧ t = s) ∨
    (∃ c n v, i = .controlChange c n v ∧ ccConsumed s.params c n = true ∧
      t = s.writeSecondary 0 (controllerCode s.params v)) ∨
    (∃ c n v, i = .controlChange c n v ∧ ccConsumed s.params c n = false ∧ t = s) ∨
    (i = .clock ∧ s.transportRunning = false ∧ t = s) ∨
    (i = .clock ∧ s.transportRunning = true ∧ t = s.forEachClock fun c j => c.tick s.params.retrigger s.now j) ∨
    ((i = .start ∨ i = .cont) ∧ t = s.startTransport) ∨
    (i = .stop ∧ t = (s.setTransport false).forEachClock fun c j => c.halt j) ∨
    (i = .poll ∧ t = s.forEachClock fun c j => c.expire s.now j) ∨
    (∃ j r c, i = .setDiv j r ∧ s.clk[j.toNat]? = some c ∧ t = s.setClock j.toNat (c.configure r)) ∨
    (∃ j c, i = .getDiv j ∧ s.clk[j.toNat]? = some c ∧ t = s.setRdata (c.divisionIndex.setWidth 8)) := by
  cases i with
  | noteOn c p v =>
    simp only [exec, execNoteOn, Host.Outcome.next.injEq] at h
    obtain ⟨rfl, hr⟩ | ⟨k, hc, hr⟩ | ⟨hc, hr⟩ := route_cases c
    · exact .inl ⟨p, v, rfl, by rw [hr] at h; exact h.symm⟩
    · exact .inr (.inl ⟨k, c, p, v, rfl, hc, by rw [hr] at h; exact h.symm⟩)
    · exact .inr (.inr (.inr (.inr (.inl ⟨c, p, v, .inl rfl, hc, by rw [hr] at h; exact h.symm⟩))))
  | noteOff c p v =>
    simp only [exec, execNoteOff, Host.Outcome.next.injEq] at h
    obtain ⟨rfl, hr⟩ | ⟨k, hc, hr⟩ | ⟨hc, hr⟩ := route_cases c
    · exact .inr (.inr (.inl ⟨p, v, rfl, by rw [hr] at h; exact h.symm⟩))
    · exact .inr (.inr (.inr (.inl ⟨k, c, p, v, rfl, hc, by rw [hr] at h; exact h.symm⟩)))
    · exact .inr (.inr (.inr (.inr (.inl ⟨c, p, v, .inr rfl, hc, by rw [hr] at h; exact h.symm⟩))))
  | controlChange c n v =>
    simp only [exec, execControlChange, Host.Outcome.next.injEq] at h
    cases hc : ccConsumed s.params c n
    · exact .inr (.inr (.inr (.inr (.inr (.inr (.inl ⟨c, n, v, rfl, hc, by simpa [hc] using h.symm⟩))))))
    · exact .inr (.inr (.inr (.inr (.inr (.inl ⟨c, n, v, rfl, hc, by simpa [hc] using h.symm⟩)))))
  | clock =>
    simp only [exec, execClock, Host.Outcome.next.injEq] at h
    cases hr : s.transportRunning
    · simp_all
    · simp_all
  | start => simp only [exec, execStart, Host.Outcome.next.injEq] at h; simp_all
  | cont => simp only [exec, execContinue, Host.Outcome.next.injEq] at h; simp_all
  | stop => simp only [exec, execStop, Host.Outcome.next.injEq] at h; simp_all
  | poll => simp only [exec, execPoll, Host.Outcome.next.injEq] at h; simp_all
  | setDiv j r =>
    simp only [exec, execSetDiv] at h
    split at h
    · rename_i c hc
      cases h
      simp_all
    · cases h
  | getDiv j =>
    simp only [exec, execGetDiv] at h
    split at h
    · rename_i c hc
      cases h
      simp_all
    · cases h

end Sys2Proof.Machine
end

