-- ==== Sys2Proof/Laws/Notes.lean ====
section
/-! SUPPORT. What the note commands leave in each field, one lemma per field: the callers cite these. -/

namespace Sys2Proof.Machine

variable (pitch velocity : Data7) (s : State)

/-! ## NOTE_ON on the primary channel -/

/-- The steps of R143 before the slide. -/
theorem noteOnPrimary_eq :
    noteOnPrimary pitch velocity s =
      if 1 < (satInc s.ch0.activeNoteCount s.params.countMax).toNat then
        ((((s.setCount (satInc s.ch0.activeNoteCount s.params.countMax)).writePitch 0 pitch).setPrimaryGate
          true).setAccent (accentOf velocity)).setSlide true
      else
        (((s.setCount (satInc s.ch0.activeNoteCount s.params.countMax)).writePitch 0 pitch).setPrimaryGate
          true).setAccent (accentOf velocity) := rfl

@[simp] theorem noteOnPrimary_count :
    (noteOnPrimary pitch velocity s).ch0.activeNoteCount = satInc s.ch0.activeNoteCount s.params.countMax := by
  rw [noteOnPrimary_eq]; split <;> rfl
@[simp] theorem noteOnPrimary_gate : (noteOnPrimary pitch velocity s).ch0.gate = true := by
  rw [noteOnPrimary_eq]; split <;> rfl
@[simp] theorem noteOnPrimary_accent : (noteOnPrimary pitch velocity s).ch0.accent = accentOf velocity := by
  rw [noteOnPrimary_eq]; split <;> rfl
theorem noteOnPrimary_slide :
    (noteOnPrimary pitch velocity s).ch0.slide =
      if 1 < (satInc s.ch0.activeNoteCount s.params.countMax).toNat then true else s.ch0.slide := by
  rw [noteOnPrimary_eq]; split <;> rfl
@[simp] theorem noteOnPrimary_ch : (noteOnPrimary pitch velocity s).ch = s.ch := by
  rw [noteOnPrimary_eq]; split <;> rfl
@[simp] theorem noteOnPrimary_frames :
    (noteOnPrimary pitch velocity s).obs.frames =
      s.obs.frames ++ [⟨0, dacWord .A ((pitchCode s.params pitch.toNat).setWidth 16)⟩] := by
  rw [noteOnPrimary_eq]; split <;> rfl
@[simp] theorem noteOnPrimary_cv :
    (noteOnPrimary pitch velocity s).obs.cv =
      cvAfterFrame s.obs.cv ⟨0, dacWord .A ((pitchCode s.params pitch.toNat).setWidth 16)⟩ := by
  rw [noteOnPrimary_eq]; split <;> rfl
theorem noteOnPrimary_events :
    (noteOnPrimary pitch velocity s).obs.events =
      s.obs.events ++ frameActions ⟨0, dacWord .A ((pitchCode s.params pitch.toNat).setWidth 16)⟩ ++
        lineChange (.gate 0) s.ch0.gate true ++ lineChange .accent s.ch0.accent (accentOf velocity) ++
        lineChange .slide s.ch0.slide (noteOnPrimary pitch velocity s).ch0.slide := by
  rw [noteOnPrimary_slide, noteOnPrimary_eq]
  split
  · simp
  · simp
theorem noteOnPrimary_clockSide : SameClockSide s (noteOnPrimary pitch velocity s) := by
  rw [noteOnPrimary_eq]; split <;> exact ⟨rfl, rfl, rfl⟩
theorem noteOnPrimary_hostSide : SameHostSide s (noteOnPrimary pitch velocity s) := by
  rw [noteOnPrimary_eq]; split <;> exact ⟨rfl, rfl, rfl, rfl, rfl⟩

/-! ## NOTE_OFF on the primary channel -/

/-- What the last release adds to R145's steps 1 and 2. -/
theorem noteOffPrimary_eq :
    noteOffPrimary s =
      if 1 < (satDec s.ch0.activeNoteCount).toNat then s.setCount (satDec s.ch0.activeNoteCount)
      else if (satDec s.ch0.activeNoteCount).toNat = 0 then
        if s.params.releaseZeroesSecondary = true then
          ((((s.setCount (satDec s.ch0.activeNoteCount)).setSlide false).setPrimaryGate false).setAccent
            false).writeSecondary 0 0
        else
          (((s.setCount (satDec s.ch0.activeNoteCount)).setSlide false).setPrimaryGate false).setAccent false
      else (s.setCount (satDec s.ch0.activeNoteCount)).setSlide false := by
  unfold noteOffPrimary
  simp only [State.setCount_ch0]
  by_cases h : 1 < (satDec s.ch0.activeNoteCount).toNat
  · simp [h, show ¬ (satDec s.ch0.activeNoteCount).toNat ≤ 1 by omega,
      show (satDec s.ch0.activeNoteCount).toNat ≠ 0 by omega]
  · simp [h, show (satDec s.ch0.activeNoteCount).toNat ≤ 1 by omega]

@[simp] theorem noteOffPrimary_count :
    (noteOffPrimary s).ch0.activeNoteCount = satDec s.ch0.activeNoteCount := by
  rw [noteOffPrimary_eq]; repeat' split
  all_goals rfl
theorem noteOffPrimary_slide :
    (noteOffPrimary s).ch0.slide =
      if (satDec s.ch0.activeNoteCount).toNat ≤ 1 then false else s.ch0.slide := by
  rw [noteOffPrimary_eq]; repeat' split
  all_goals first | rfl | omega
theorem noteOffPrimary_gate :
    (noteOffPrimary s).ch0.gate = if (satDec s.ch0.activeNoteCount).toNat = 0 then false else s.ch0.gate := by
  rw [noteOffPrimary_eq]; repeat' split
  all_goals first | rfl | omega
theorem noteOffPrimary_accent :
    (noteOffPrimary s).ch0.accent = if (satDec s.ch0.activeNoteCount).toNat = 0 then false else s.ch0.accent := by
  rw [noteOffPrimary_eq]; repeat' split
  all_goals first | rfl | omega
@[simp] theorem noteOffPrimary_ch : (noteOffPrimary s).ch = s.ch := by
  rw [noteOffPrimary_eq]; repeat' split
  all_goals rfl
/-- The frames of a primary release: the zero frame when the count is 0 and the parameter asks for it (R145). -/
theorem noteOffPrimary_frames :
    (noteOffPrimary s).obs.frames = s.obs.frames ++
      (if (satDec s.ch0.activeNoteCount).toNat = 0 ∧ s.params.releaseZeroesSecondary = true then
        [⟨0, 0xB000#16⟩] else []) := by
  rw [noteOffPrimary_eq]; repeat' split
  all_goals first | (exfalso; omega) | simp_all
  rfl
theorem noteOffPrimary_cv :
    (noteOffPrimary s).obs.cv =
      if (satDec s.ch0.activeNoteCount).toNat = 0 ∧ s.params.releaseZeroesSecondary = true then
        cvAfterFrame s.obs.cv ⟨0, 0xB000#16⟩ else s.obs.cv := by
  rw [noteOffPrimary_eq]; repeat' split
  all_goals first | (exfalso; omega) | simp_all
  rfl
theorem noteOffPrimary_events :
    (noteOffPrimary s).obs.events =
      s.obs.events ++ lineChange .slide s.ch0.slide (noteOffPrimary s).ch0.slide ++
        lineChange (.gate 0) s.ch0.gate (noteOffPrimary s).ch0.gate ++
        lineChange .accent s.ch0.accent (noteOffPrimary s).ch0.accent ++
        (if (satDec s.ch0.activeNoteCount).toNat = 0 ∧ s.params.releaseZeroesSecondary = true then
          frameActions ⟨0, 0xB000#16⟩ else []) := by
  rw [noteOffPrimary_slide, noteOffPrimary_gate, noteOffPrimary_accent, noteOffPrimary_eq]
  split
  · rename_i h
    simp [show ¬ (satDec s.ch0.activeNoteCount).toNat ≤ 1 by omega,
      show (satDec s.ch0.activeNoteCount).toNat ≠ 0 by omega]
  · rename_i h
    split
    · rename_i h0
      split <;> simp_all
      rfl
    · rename_i h0
      simp [h0, show (satDec s.ch0.activeNoteCount).toNat ≤ 1 by omega]
theorem noteOffPrimary_clockSide : SameClockSide s (noteOffPrimary s) := by
  rw [noteOffPrimary_eq]; repeat' split
  all_goals exact ⟨rfl, rfl, rfl⟩
theorem noteOffPrimary_hostSide : SameHostSide s (noteOffPrimary s) := by
  rw [noteOffPrimary_eq]; repeat' split
  all_goals exact ⟨rfl, rfl, rfl, rfl, rfl⟩

/-! ## The secondary channels -/

variable (i : Fin 3)

@[simp] theorem noteOnSecondary_ch0 : (noteOnSecondary i pitch velocity s).ch0 = s.ch0 := rfl
@[simp] theorem noteOnSecondary_ch : (noteOnSecondary i pitch velocity s).ch = s.ch.set i.val ⟨true⟩ := rfl
@[simp] theorem noteOnSecondary_frames :
    (noteOnSecondary i pitch velocity s).obs.frames = s.obs.frames ++
      [⟨i.succ, dacWord .A ((pitchCode s.params pitch.toNat).setWidth 16)⟩,
        ⟨i.succ, dacWord .B ((velocityCode s.params velocity).setWidth 16)⟩] := by
  simp [noteOnSecondary]
@[simp] theorem noteOnSecondary_cv :
    (noteOnSecondary i pitch velocity s).obs.cv =
      cvAfterFrame (cvAfterFrame s.obs.cv ⟨i.succ, dacWord .A ((pitchCode s.params pitch.toNat).setWidth 16)⟩)
        ⟨i.succ, dacWord .B ((velocityCode s.params velocity).setWidth 16)⟩ := rfl
theorem noteOnSecondary_events :
    (noteOnSecondary i pitch velocity s).obs.events = s.obs.events ++
      frameActions ⟨i.succ, dacWord .A ((pitchCode s.params pitch.toNat).setWidth 16)⟩ ++
      frameActions ⟨i.succ, dacWord .B ((velocityCode s.params velocity).setWidth 16)⟩ ++
      lineChange (.gate i.succ) s.ch[i.val].gate true := rfl
theorem noteOnSecondary_clockSide : SameClockSide s (noteOnSecondary i pitch velocity s) := ⟨rfl, rfl, rfl⟩
theorem noteOnSecondary_hostSide : SameHostSide s (noteOnSecondary i pitch velocity s) :=
  ⟨rfl, rfl, rfl, rfl, rfl⟩

@[simp] theorem noteOffSecondary_ch0 : (noteOffSecondary i s).ch0 = s.ch0 := rfl
@[simp] theorem noteOffSecondary_ch : (noteOffSecondary i s).ch = s.ch.set i.val ⟨false⟩ := rfl
@[simp] theorem noteOffSecondary_frames :
    (noteOffSecondary i s).obs.frames = s.obs.frames ++ [⟨i.succ, 0xB000#16⟩] := rfl
@[simp] theorem noteOffSecondary_cv :
    (noteOffSecondary i s).obs.cv = cvAfterFrame s.obs.cv ⟨i.succ, 0xB000#16⟩ := rfl
theorem noteOffSecondary_events :
    (noteOffSecondary i s).obs.events = s.obs.events ++ frameActions ⟨i.succ, 0xB000#16⟩ ++
      lineChange (.gate i.succ) s.ch[i.val].gate false := rfl
theorem noteOffSecondary_clockSide : SameClockSide s (noteOffSecondary i s) := ⟨rfl, rfl, rfl⟩
theorem noteOffSecondary_hostSide : SameHostSide s (noteOffSecondary i s) := ⟨rfl, rfl, rfl, rfl, rfl⟩

/-! ## The note commands as `exec` -/

theorem exec_noteOn_primary : exec (.noteOn 0 pitch velocity) s = .next (noteOnPrimary pitch velocity s) := rfl

theorem exec_noteOff_primary : exec (.noteOff 0 pitch velocity) s = .next (noteOffPrimary s) := rfl

theorem route_of_toNat {c : ChannelNibble} {i : Fin 3} (h : c.toNat = i.val + 1) : route c = .secondary i := by
  have hc : c = BitVec.ofNat 4 (i.val + 1) := by
    apply BitVec.eq_of_toNat_eq
    simp only [h, BitVec.toNat_ofNat]
    omega
  rw [hc, route_secondary]

theorem exec_noteOn_secondary {c : ChannelNibble} {i : Fin 3} (h : c.toNat = i.val + 1) :
    exec (.noteOn c pitch velocity) s = .next (noteOnSecondary i pitch velocity s) := by
  simp only [exec, execNoteOn, route_of_toNat h]

theorem exec_noteOff_secondary {c : ChannelNibble} {i : Fin 3} (h : c.toNat = i.val + 1) :
    exec (.noteOff c pitch velocity) s = .next (noteOffSecondary i s) := by
  simp only [exec, execNoteOff, route_of_toNat h]

/-- A pitch frame to device `d` (R127, R129). -/
theorem cvAfterFrame_A (cv : Vector DacOutputs 4) (d : Fin 4) (code : Code) :
    cvAfterFrame cv ⟨d, dacWord .A (code.setWidth 16)⟩ = cv.set d.val ⟨some code, cv[d.val].b⟩ := by
  simp [cvAfterFrame, subOf_dacWord, codeOf_dacWord, DacOutputs.put]

/-- A secondary frame to device `d` (R127, R130). -/
theorem cvAfterFrame_B (cv : Vector DacOutputs 4) (d : Fin 4) (code : Code) :
    cvAfterFrame cv ⟨d, dacWord .B (code.setWidth 16)⟩ = cv.set d.val ⟨cv[d.val].a, some code⟩ := by
  simp [cvAfterFrame, subOf_dacWord, codeOf_dacWord, DacOutputs.put]

/-- The zero frame (R125). -/
theorem dacWord_B_zero : dacWord .B 0#16 = 0xB000#16 := rfl

/-- No command touches the command input, the parameters or the recorded line levels: the step does. -/
theorem exec_hostSide {i : Instr} {s t : State} (h : exec i s = .next t) : SameHostSide s t := by
  rcases exec_cases h with ⟨p, v, -, rfl⟩ | ⟨k, c, p, v, -, -, rfl⟩ | ⟨p, v, -, rfl⟩ | ⟨k, c, p, v, -, -, rfl⟩ |
    ⟨c, p, v, -, -, rfl⟩ | ⟨c, n, v, -, -, rfl⟩ | ⟨c, n, v, -, -, rfl⟩ | ⟨-, -, rfl⟩ | ⟨-, -, rfl⟩ | ⟨-, rfl⟩ |
    ⟨-, rfl⟩ | ⟨-, rfl⟩ | ⟨j, r, c, -, -, rfl⟩ | ⟨j, c, -, -, rfl⟩
  · exact noteOnPrimary_hostSide ..
  · exact noteOnSecondary_hostSide ..
  · exact noteOffPrimary_hostSide ..
  · exact noteOffSecondary_hostSide ..
  all_goals exact ⟨rfl, rfl, rfl, rfl, rfl⟩

end Sys2Proof.Machine
end

