-- ==== Sys2Proof/Laws/Clock.lean ====
section
/-! SUPPORT. What the clock commands leave in each field, one lemma per command: the callers cite these. -/

namespace Sys2Proof.Machine

/-- A sweep whose part does not depend on the channel number is a map over the records. -/
theorem sweep_eq_map {f : ClockChannel → Nat → ClockChannel × List Event} (g : ClockChannel → ClockChannel)
    (h : ∀ c j, (f c j).1 = g c) (j : Nat) (cs : List ClockChannel) : (sweep f j cs).1 = cs.map g := by
  induction cs generalizing j with
  | nil => rfl
  | cons c cs ih => simp [sweep, h, ih]

@[simp] theorem ClockChannel.busTrace_tick (c : ClockChannel) (policy : Retrigger) (now : Timestamp) (j : Nat) :
    busTrace (c.tick policy now j).2 = [] := by
  rcases c.tick_cases policy now j with ⟨-, h⟩ | ⟨-, h⟩ <;> simp [h]

@[simp] theorem ClockChannel.busTrace_expire (c : ClockChannel) (now : Timestamp) (j : Nat) :
    busTrace (c.expire now j).2 = [] := by
  rcases c.expire_cases now j with ⟨-, h⟩ | ⟨-, h⟩
  · rw [h]; rfl
  · rw [h]; rfl

@[simp] theorem ClockChannel.busTrace_restart (c : ClockChannel) (policy : Retrigger) (now : Timestamp) (j : Nat) :
    busTrace (c.restart policy now j).2 = [] := busTrace_fireEvents ..

@[simp] theorem ClockChannel.busTrace_halt (c : ClockChannel) (j : Nat) : busTrace (c.halt j).2 = [] :=
  busTrace_lineChange ..

/-- A sweep that puts nothing on the bus leaves the note section alone (R197). -/
theorem forEachClock_noteSide (s : State) (f : ClockChannel → Nat → ClockChannel × List Event)
    (h : ∀ c j, busTrace (f c j).2 = []) : SameNoteSide s (s.forEachClock f) :=
  ⟨rfl, rfl, rfl, rfl, by simp [busTrace_sweep f h]⟩

/-- START and CONTINUE on the clock records (R177, R178). -/
theorem startTransport_clk (s : State) :
    s.startTransport.clk =
      s.clk.map fun c => { c with tickCount := 0, pulseActive := true, pulseStartTime := s.now } :=
  sweep_eq_map (f := fun c j => c.restart s.params.retrigger s.now j) _ (fun _ _ => rfl) 0 s.clk

theorem startTransport_noteSide (s : State) : SameNoteSide s s.startTransport := by
  have h := forEachClock_noteSide (s.setTransport true) (fun c j => c.restart s.params.retrigger s.now j)
    fun c j => c.busTrace_restart ..
  exact ⟨h.ch0, h.ch, h.frames, h.cv, h.bus⟩

/-- STOP on the clock records (R179). -/
theorem stop_clk (s : State) :
    ((s.setTransport false).forEachClock fun c j => c.halt j).clk =
      s.clk.map fun c => { c with tickCount := 0, pulseActive := false } :=
  sweep_eq_map (f := fun c j => c.halt j) _ (fun _ _ => rfl) 0 s.clk

theorem stop_noteSide (s : State) :
    SameNoteSide s ((s.setTransport false).forEachClock fun c j => c.halt j) := by
  have h := forEachClock_noteSide (s.setTransport false) (fun c j => c.halt j) fun c j => c.busTrace_halt j
  exact ⟨h.ch0, h.ch, h.frames, h.cv, h.bus⟩

/-- POLL on the clock records (R190). -/
theorem poll_clk (s : State) :
    (s.forEachClock fun c j => c.expire s.now j).clk =
      s.clk.map fun c =>
        if c.pulseActive = true ∧ 10 < (s.now - c.pulseStartTime).toNat then { c with pulseActive := false } else c := by
  refine sweep_eq_map (f := fun c j => c.expire s.now j) _ (fun c j => ?_) 0 s.clk
  rcases c.expire_cases s.now j with ⟨h1, h2⟩ | ⟨h1, h2⟩
  · rw [h2, if_pos h1]
  · rw [h2, if_neg h1]

/-- A running CLOCK on one clock record (R175). -/
theorem clock_getElem? (s : State) (j : Nat) :
    (s.forEachClock fun c j => c.tick s.params.retrigger s.now j).clk[j]? =
      s.clk[j]?.map fun c =>
        if c.threshold ≤ (c.tickCount + 1).toNat then
          { c with tickCount := 0, pulseActive := true, pulseStartTime := s.now }
        else { c with tickCount := c.tickCount + 1 } := by
  simp only [State.forEachClock_clk, sweep_getElem?]
  congr 1
  funext c
  rcases c.tick_cases s.params.retrigger s.now (0 + j) with ⟨h1, h2⟩ | ⟨h1, h2⟩
  · rw [h2, if_pos h1]
  · rw [h2, if_neg (by omega)]

/-- What any command does to one clock record: nothing, a tick, a fire, a retraction, an expiry, or a new division. -/
theorem exec_channel {i : Instr} {s t : State} {j : Nat} {c d : ClockChannel} (h : exec i s = .next t)
    (hc : s.clk[j]? = some c) (hd : t.clk[j]? = some d) :
    d = c ∨
    (i = .clock ∧ s.transportRunning = true ∧
      d = if c.threshold ≤ (c.tickCount + 1).toNat then
          { c with tickCount := 0, pulseActive := true, pulseStartTime := s.now }
        else { c with tickCount := c.tickCount + 1 }) ∨
    ((i = .start ∨ i = .cont) ∧ d = { c with tickCount := 0, pulseActive := true, pulseStartTime := s.now }) ∨
    (i = .stop ∧ d = { c with tickCount := 0, pulseActive := false }) ∨
    (i = .poll ∧ d =
      if c.pulseActive = true ∧ 10 < (s.now - c.pulseStartTime).toNat then { c with pulseActive := false } else c) ∨
    (∃ b r, i = .setDiv b r ∧ b.toNat = j ∧ d = c.configure r) := by
  have same : t.clk = s.clk → d = c := fun e => by rw [e, hc] at hd; exact (Option.some.inj hd).symm
  rcases exec_cases h with ⟨p, v, rfl, rfl⟩ | ⟨k, c, p, v, rfl, hk, rfl⟩ | ⟨p, v, rfl, rfl⟩ |
    ⟨k, c, p, v, rfl, hk, rfl⟩ | ⟨c, p, v, hi, hk, rfl⟩ | ⟨c, n, v, rfl, -, rfl⟩ | ⟨c, n, v, rfl, -, rfl⟩ |
    ⟨rfl, -, rfl⟩ | ⟨rfl, hr, rfl⟩ | ⟨hi, rfl⟩ | ⟨rfl, rfl⟩ | ⟨rfl, rfl⟩ | ⟨b, r, c', rfl, hc', rfl⟩ |
    ⟨j, c, rfl, -, rfl⟩
  · exact .inl (same (noteOnPrimary_clockSide ..).clk)
  · exact .inl (same rfl)
  · exact .inl (same (noteOffPrimary_clockSide ..).clk)
  · exact .inl (same rfl)
  · exact .inl (same rfl)
  · exact .inl (same rfl)
  · exact .inl (same rfl)
  · exact .inl (same rfl)
  · rw [clock_getElem?, hc] at hd
    exact .inr (.inl ⟨rfl, hr, (Option.some.inj hd).symm⟩)
  · rw [startTransport_clk, List.getElem?_map, hc] at hd
    exact .inr (.inr (.inl ⟨hi, (Option.some.inj hd).symm⟩))
  · rw [stop_clk, List.getElem?_map, hc] at hd
    exact .inr (.inr (.inr (.inl ⟨rfl, (Option.some.inj hd).symm⟩)))
  · rw [poll_clk, List.getElem?_map, hc] at hd
    exact .inr (.inr (.inr (.inr (.inl ⟨rfl, (Option.some.inj hd).symm⟩))))
  · by_cases e : b.toNat = j
    · subst e
      rw [hc] at hc'; cases hc'
      obtain ⟨hl, -⟩ := List.getElem?_eq_some_iff.mp hc
      simp [hl] at hd
      exact .inr (.inr (.inr (.inr (.inr ⟨b, r, rfl, rfl, hd.symm⟩))))
    · simp [List.getElem?_set_ne e] at hd
      rw [hc] at hd
      exact .inl (Option.some.inj hd).symm
  · exact .inl (same rfl)

/-- No command adds or removes a clock record. -/
theorem exec_clk_length {i : Instr} {s t : State} (h : exec i s = .next t) : t.clk.length = s.clk.length := by
  rcases exec_cases h with ⟨p, v, rfl, rfl⟩ | ⟨k, c, p, v, rfl, hk, rfl⟩ | ⟨p, v, rfl, rfl⟩ |
    ⟨k, c, p, v, rfl, hk, rfl⟩ | ⟨c, p, v, hi, hk, rfl⟩ | ⟨c, n, v, rfl, -, rfl⟩ | ⟨c, n, v, rfl, -, rfl⟩ |
    ⟨rfl, -, rfl⟩ | ⟨rfl, hr, rfl⟩ | ⟨hi, rfl⟩ | ⟨rfl, rfl⟩ | ⟨rfl, rfl⟩ | ⟨b, r, c', rfl, hc', rfl⟩ |
    ⟨j, c, rfl, -, rfl⟩
  · rw [(noteOnPrimary_clockSide ..).clk]
  · rfl
  · rw [(noteOffPrimary_clockSide ..).clk]
  all_goals first | rfl | simp [State.startTransport]

/-- The events of START and CONTINUE (R177, R178). -/
theorem startTransport_events (s : State) :
    s.startTransport.obs.events =
      s.obs.events ++ (sweep (fun c j => c.restart s.params.retrigger s.now j) 0 s.clk).2 := rfl

/-! ## Runs of several instructions -/

theorem execTimed_append (a b : List (Timestamp × Instr)) {s t : State} (h : execTimed a s = .next t) :
    execTimed (a ++ b) s = execTimed b t := by
  induction a generalizing s with
  | nil => cases h; rfl
  | cons x a ih =>
    obtain ⟨stamp, i⟩ := x
    simp only [execTimed, List.cons_append] at h ⊢
    split at h
    · exact ih h
    · cases h
    · cases h

/-- CLOCKs while the transport is stopped move the timestamp and nothing else (R175). -/
theorem execTimed_clocks_stopped (stamps : List Timestamp) {s : State} (h : s.transportRunning = false) :
    ∃ now, execTimed (clocksAt stamps) s = .next { s with now := now } := by
  induction stamps generalizing s with
  | nil => exact ⟨s.now, rfl⟩
  | cons stamp stamps ih =>
    obtain ⟨now, hn⟩ := ih (s := { s with now := stamp }) h
    refine ⟨now, ?_⟩
    have hstep : exec .clock { s with now := stamp } = .next { s with now := stamp } := by
      simp [exec, execClock, h]
    rw [clocksAt, List.map_cons, execTimed, hstep]
    exact hn

end Sys2Proof.Machine
end

