-- ==== Sys2Proof/Laws/Decode.lean ====
section
/-! SUPPORT. The fields of a packed word, and packing its fields (30_encoding.md R91). -/

namespace Sys2Proof

/-- The bits of a packed word. -/
theorem getLsbD_packWord (op d1 d2 : Byte) (i : Nat) :
    (packWord op d1 d2).getLsbD i =
      if i < 8 then d2.getLsbD i else if i < 16 then d1.getLsbD (i - 8) else op.getLsbD (i - 16) := by
  show BitVec.getLsbD (op ++ d1 ++ d2) i = _
  simp only [BitVec.getLsbD_append]
  by_cases h : i < 8
  · simp [h]
  · by_cases h' : i < 16
    · simp [h, h', show i - 8 < 8 by omega]
    · simp [h, h', show ¬ (i - 8 < 8) by omega, Nat.sub_sub]

@[simp] theorem opField_packWord (op d1 d2 : Byte) : opField (packWord op d1 d2) = op := by
  apply BitVec.eq_of_getLsbD_eq
  intro i hi
  simp [opField, getLsbD_packWord, hi, show ¬ (16 + i < 8) by omega]

@[simp] theorem d1Field_packWord (op d1 d2 : Byte) : d1Field (packWord op d1 d2) = d1 := by
  apply BitVec.eq_of_getLsbD_eq
  intro i hi
  simp [d1Field, getLsbD_packWord, hi, show 8 + i < 16 by omega]

@[simp] theorem d2Field_packWord (op d1 d2 : Byte) : d2Field (packWord op d1 d2) = d2 := by
  apply BitVec.eq_of_getLsbD_eq
  intro i hi
  simp [d2Field, getLsbD_packWord, hi]

@[simp] theorem packWord_fields (w : CommandWord) : packWord (opField w) (d1Field w) (d2Field w) = w := by
  apply BitVec.eq_of_getLsbD_eq
  intro i hi
  simp only [getLsbD_packWord, opField, d1Field, d2Field, BitVec.getLsbD_extractLsb']
  split
  · simp [*]
  · split
    · simp [show i - 8 < 8 by omega, show 8 + (i - 8) = i by omega]
    · simp [show i - 16 < 8 by omega, show 16 + (i - 16) = i by omega]

/-- Masking a packed word masks its fields. -/
theorem packWord_and (op d1 d2 m m1 m2 : Byte) :
    packWord op d1 d2 &&& packWord m m1 m2 = packWord (op &&& m) (d1 &&& m1) (d2 &&& m2) := by
  apply BitVec.eq_of_getLsbD_eq
  intro i hi
  simp only [BitVec.getLsbD_and, getLsbD_packWord]
  split
  · rfl
  · split <;> rfl

theorem packWord_inj {op d1 d2 op' d1' d2' : Byte} :
    packWord op d1 d2 = packWord op' d1' d2' ↔ op = op' ∧ d1 = d1' ∧ d2 = d2' := by
  constructor
  · intro h
    exact ⟨by simpa using congrArg opField h, by simpa using congrArg d1Field h, by simpa using congrArg d2Field h⟩
  · rintro ⟨rfl, rfl, rfl⟩
    rfl

/-- A word matches a row whose pattern and mask are packed exactly when its fields do (R95). -/
theorem and_packWord_eq_iff (w : CommandWord) (m m1 m2 v v1 v2 : Byte) :
    w &&& packWord m m1 m2 = packWord v v1 v2 ↔
      opField w &&& m = v ∧ d1Field w &&& m1 = v1 ∧ d2Field w &&& m2 = v2 := by
  conv_lhs => rw [← packWord_fields w]
  rw [packWord_and, packWord_inj]

theorem and_ff (b : Byte) : b &&& 0xFF#8 = b := by
  revert b; decide

theorem and_00 (b : Byte) : b &&& 0x00#8 = 0#8 := by
  revert b; decide

/-- A word matches a SYS row exactly when its opcode is the row's and its operand bytes are zero (R95). -/
theorem and_sysMask_eq_iff (op : Byte) (w : CommandWord) :
    w &&& 0xFFFFFF#24 = packWord op 0#8 0#8 ↔ opField w = op ∧ d1Field w = 0#8 ∧ d2Field w = 0#8 := by
  have h := and_packWord_eq_iff w 0xFF#8 0xFF#8 0xFF#8 op 0#8 0#8
  rw [and_ff, and_ff, and_ff] at h
  exact h

/-- A word matches the SET_DIV row exactly when its opcode is 0x02 (R95). -/
theorem and_setDivMask_eq_iff (w : CommandWord) :
    w &&& 0xFF0000#24 = packWord 0x02#8 0#8 0#8 ↔ opField w = 0x02#8 := by
  have h := and_packWord_eq_iff w 0xFF#8 0x00#8 0x00#8 0x02#8 0#8 0#8
  rw [and_ff, and_00, and_00] at h
  exact h.trans (by simp)

/-- A word matches the GET_DIV row exactly when its opcode is 0x03 and its second operand byte is zero (R95). -/
theorem and_getDivMask_eq_iff (w : CommandWord) :
    w &&& 0xFF00FF#24 = packWord 0x03#8 0#8 0#8 ↔ opField w = 0x03#8 ∧ d2Field w = 0#8 := by
  have h := and_packWord_eq_iff w 0xFF#8 0x00#8 0xFF#8 0x03#8 0#8 0#8
  rw [and_ff, and_00, and_ff] at h
  exact h.trans (by simp)

@[simp] theorem kindField_chanOp (kind : BitVec 4) (c : ChannelNibble) : kindField (chanOp kind c) = kind := by
  revert kind c; decide

@[simp] theorem nibbleField_chanOp (kind : BitVec 4) (c : ChannelNibble) : nibbleField (chanOp kind c) = c := by
  revert kind c; decide

@[simp] theorem chanOp_fields (op : Byte) : chanOp (kindField op) (nibbleField op) = op := by
  revert op; decide

/-- Testing the high nibble by mask (R91, R95). -/
theorem and_f0_eq_iff (op : Byte) (k : BitVec 4) : op &&& 0xF0#8 = chanOp k 0#4 ↔ kindField op = k := by
  revert op k; decide

/-- The host and system opcodes are of no MIDI channel kind (R95). -/
theorem kindField_sys (op : Byte)
    (h : op = 0xF8#8 ∨ op = 0xFA#8 ∨ op = 0xFB#8 ∨ op = 0xFC#8 ∨ op = 0x01#8 ∨ op = 0x02#8 ∨ op = 0x03#8) :
    kindField op ≠ 0x8#4 ∧ kindField op ≠ 0x9#4 ∧ kindField op ≠ 0xB#4 := by
  revert op; decide

/-- Testing bit 7 by mask (R94, R95). -/
theorem and_80_eq_iff (d : Byte) : d &&& 0x80#8 = 0#8 ↔ d.msb = false := by
  revert d; decide

/-- A word matches a CHAN row exactly when its kind is the row's and its data bytes have bit 7 clear (R95). -/
theorem and_chanMask_eq_iff (k : BitVec 4) (w : CommandWord) :
    w &&& 0xF08080#24 = packWord (chanOp k 0#4) 0#8 0#8 ↔
      kindField (opField w) = k ∧ (d1Field w).msb = false ∧ (d2Field w).msb = false := by
  have h := and_packWord_eq_iff w 0xF0#8 0x80#8 0x80#8 (chanOp k 0#4) 0#8 0#8
  rw [and_f0_eq_iff, and_80_eq_iff, and_80_eq_iff] at h
  exact h

@[simp] theorem msb_dataByte (v : Data7) : (dataByte v).msb = false := by
  revert v; decide

@[simp] theorem dataField_dataByte (v : Data7) : dataField (dataByte v) = v := by
  revert v; decide

@[simp] theorem toNat_dataByte (v : Data7) : (dataByte v).toNat = v.toNat := by
  rw [dataByte, BitVec.toNat_append]
  simp

theorem dataByte_dataField {d : Byte} (h : d.msb = false) : dataByte (dataField d) = d := by
  revert d; decide

end Sys2Proof
end

