-- ==== Sys2Proof/Laws/Observation.lean ====
section
/-! SUPPORT. Each shared operation keeps the observation record true (`ObservationOk` of Safety.lean). -/

namespace Sys2Proof.Machine

/-- An operation that leaves the record, the position and every line level alone keeps it true. -/
theorem ObservationOk.of_same {s t : State} (h : ObservationOk s) (ho : t.obs = s.obs) (hp : t.pos = s.pos)
    (hl : ∀ l, t.level l = s.level l) : ObservationOk t := by
  refine ⟨fun e => ?_, ?_, ?_, ?_, fun l => ?_, ?_⟩
  · rw [ho]; exact h.selects_high e
  · rw [ho]; exact h.bus_is_frames
  · rw [ho]; exact h.words_legal
  · rw [ho]; exact h.cv_is_last_sent
  · rw [ho, hl, h.lines_are_levels]
  · rw [ho, hp]; exact h.lines_per_command

/-- A frame keeps it true (R127). -/
theorem ObservationOk.dacFrame {s : State} (h : ObservationOk s) (d : Fin 4) (sub : SubChannel) (code : BitVec 16) :
    ObservationOk (s.dacFrame d (dacWord sub code)) := by
  refine ⟨fun e => ?_, ?_, ?_, ?_, fun l => ?_, h.lines_per_command⟩
  · simp only [State.dacFrame_events, csAfter_append]
    exact cs_frameActions _ _ _ (h.selects_high e)
  · simp [h.bus_is_frames]
  · intro f hf
    simp at hf
    rcases hf with hf | rfl
    · exact h.words_legal f hf
    · exact dacWord_legal sub code
  · simp [cvAfterFrames, h.cv_is_last_sent]
  · simp only [State.dacFrame_events, lineAfter_append, line_frameActions]
    rw [h.lines_are_levels]
    cases l <;> rfl

/-- Setting one flag, with the event of its line, keeps it true (R40). -/
theorem ObservationOk.of_lineChange {s t : State} (h : ObservationOk s) (l : Line) (b : Bool)
    (ho : t.obs = { s.obs with events := s.obs.events ++ lineChange l (s.level l) b }) (hp : t.pos = s.pos)
    (hl : ∀ l', t.level l' = if l = l' then b else s.level l') : ObservationOk t := by
  refine ⟨fun e => ?_, ?_, ?_, ?_, fun l' => ?_, ?_⟩
  · rw [ho]
    simp only [csAfter_append]
    rw [cs_of_no_bus _ _ _ (by simp)]
    exact h.selects_high e
  · rw [ho]; simp [h.bus_is_frames]
  · rw [ho]; exact h.words_legal
  · rw [ho]; exact h.cv_is_last_sent
  · rw [ho]
    simp only [lineAfter_append]
    rw [line_lineChange, hl, h.lines_are_levels]
    intro e
    subst e
    exact h.lines_are_levels _
  · rw [ho, hp]; exact h.lines_per_command

theorem ObservationOk.setCount {s : State} (h : ObservationOk s) (n : BitVec 8) : ObservationOk (s.setCount n) :=
  h.of_same rfl rfl fun l => by cases l <;> rfl

theorem ObservationOk.setTransport {s : State} (h : ObservationOk s) (b : Bool) : ObservationOk (s.setTransport b) :=
  h.of_same rfl rfl fun l => by cases l <;> rfl

theorem ObservationOk.setRdata {s : State} (h : ObservationOk s) (v : Byte) : ObservationOk (s.setRdata v) :=
  h.of_same rfl rfl fun l => by cases l <;> rfl

theorem ObservationOk.setPrimaryGate {s : State} (h : ObservationOk s) (b : Bool) :
    ObservationOk (s.setPrimaryGate b) :=
  h.of_lineChange (.gate 0) b rfl rfl fun l => by
    cases l with
    | gate k => revert k; simp [Fin.forall_fin_succ, State.level, State.gateLevel]
    | slide => rfl
    | accent => rfl
    | pulse j => rfl

theorem ObservationOk.setSlide {s : State} (h : ObservationOk s) (b : Bool) : ObservationOk (s.setSlide b) :=
  h.of_lineChange .slide b rfl rfl fun l => by
    cases l with
    | gate k => simp [State.level, State.gateLevel]
    | slide => rfl
    | accent => rfl
    | pulse j => rfl

theorem ObservationOk.setAccent {s : State} (h : ObservationOk s) (b : Bool) : ObservationOk (s.setAccent b) :=
  h.of_lineChange .accent b rfl rfl fun l => by
    cases l with
    | gate k => simp [State.level, State.gateLevel]
    | slide => rfl
    | accent => rfl
    | pulse j => rfl

theorem ObservationOk.setSecondaryGate {s : State} (h : ObservationOk s) (i : Fin 3) (b : Bool) :
    ObservationOk (s.setSecondaryGate i b) := by
  have e : s.ch[i.val].gate = s.level (.gate i.succ) := by
    revert i
    simp [Fin.forall_fin_succ, State.level, State.gateLevel]
  refine h.of_lineChange (.gate i.succ) b (by rw [← e]; rfl) rfl fun l => ?_
  cases l with
  | gate k => revert k i; simp [Fin.forall_fin_succ, State.level, State.gateLevel]
  | slide => rfl
  | accent => rfl
  | pulse j => rfl

/-- A loop over the clock channels keeps it true, if each channel's part takes its own PULSE line where its record says
and touches no other line and not the bus. -/
theorem ObservationOk.forEachClock {s : State} (h : ObservationOk s)
    (f : ClockChannel → Nat → ClockChannel × List Event) (hb : ∀ c j, busTrace (f c j).2 = [])
    (hf : ∀ c j l level, (Line.pulse j = l → level = c.pulseActive) →
      (f c j).2.foldl (lineAfterEvent l) level = if Line.pulse j = l then (f c j).1.pulseActive else level) :
    ObservationOk (s.forEachClock f) := by
  refine ⟨fun e => ?_, ?_, h.words_legal, h.cv_is_last_sent, fun l => ?_, h.lines_per_command⟩
  · simp only [State.forEachClock_events, csAfter_append]
    rw [cs_of_no_bus _ _ _ (busTrace_sweep f hb _ _)]
    exact h.selects_high e
  · simp [h.bus_is_frames, busTrace_sweep f hb]
  · simp only [State.forEachClock_events, lineAfter_append]
    rw [line_sweep f hf]
    · cases l with
      | pulse n =>
        simp only [Nat.zero_le, if_true, Nat.sub_zero, h.lines_are_levels]
        simp only [State.level, State.pulseLevel, State.forEachClock_clk]
        rw [sweep_getElem?]
        cases s.clk[n]? <;> rfl
      | gate k => exact h.lines_are_levels _
      | slide => exact h.lines_are_levels _
      | accent => exact h.lines_are_levels _
    · intro k c hc hk
      rw [h.lines_are_levels, ← hk]
      simp [State.level, State.pulseLevel, hc]

/-- A new division moves no line (R181). -/
theorem ObservationOk.configure {s : State} (h : ObservationOk s) {j : Nat} {c : ClockChannel} (r : Byte)
    (hc : s.clk[j]? = some c) : ObservationOk (s.setClock j (c.configure r)) := by
  refine h.of_same rfl rfl fun l => ?_
  cases l with
  | pulse k =>
    obtain ⟨hl, hj⟩ := List.getElem?_eq_some_iff.mp hc
    by_cases e : j = k
    · subst e
      simp [State.level, State.pulseLevel, hl, hj, ClockChannel.configure]
    · simp [State.level, State.pulseLevel, List.getElem?_set_ne e]
  | gate k => rfl
  | slide => rfl
  | accent => rfl

end Sys2Proof.Machine
end

