-- ==== Sys2Proof/Laws/PerInstr.lean ====
section
/-! SUPPORT. Facts about every instruction as syntax, one lemma per constructor. -/

namespace Sys2Proof.Laws.EncodeMatchesRow

/-- The word of an instruction matches the pattern of its own row of the opcode map (R95). -/
def Statement (i : Instr) : Prop := encode i &&& (rowOf i).mask = (rowOf i).value

theorem chan_word (kind : BitVec 4) (c : ChannelNibble) (p v : Data7) :
    packWord (chanOp kind c) (dataByte p) (dataByte v) &&& 0xF08080#24 = packWord (chanOp kind 0#4) 0#8 0#8 := by
  apply BitVec.eq_of_getLsbD_eq
  intro i hi
  simp only [chanOp, dataByte, BitVec.getLsbD_and, getLsbD_packWord, BitVec.getLsbD_append]
  interval_cases i <;> simp

theorem noteOff (c : ChannelNibble) (p v : Data7) : Statement (.noteOff c p v) := chan_word 0x8#4 c p v
theorem noteOn (c : ChannelNibble) (p v : Data7) : Statement (.noteOn c p v) := chan_word 0x9#4 c p v
theorem controlChange (c : ChannelNibble) (k v : Data7) : Statement (.controlChange c k v) := chan_word 0xB#4 c k v
theorem clock : Statement .clock := rfl
theorem start : Statement .start := rfl
theorem cont : Statement .cont := rfl
theorem stop : Statement .stop := rfl
theorem poll : Statement .poll := rfl

theorem setDiv (j r : Byte) : Statement (.setDiv j r) := by
  show packWord 0x02#8 j r &&& 0xFF0000#24 = 0x020000#24
  apply BitVec.eq_of_getLsbD_eq
  intro i hi
  simp only [BitVec.getLsbD_and, getLsbD_packWord]
  interval_cases i <;> simp

theorem getDiv (j : Byte) : Statement (.getDiv j) := by
  show packWord 0x03#8 j 0#8 &&& 0xFF00FF#24 = 0x030000#24
  apply BitVec.eq_of_getLsbD_eq
  intro i hi
  simp only [BitVec.getLsbD_and, getLsbD_packWord]
  interval_cases i <;> simp

end Sys2Proof.Laws.EncodeMatchesRow
end

