-- ==== Sys2Proof/Tests/Slice0.lean ====
section
/-! SUPPORT. Tests and witnesses.  Expected values come from spec/95_test_vectors.md (the section is named at each test)
or from the rule named there.  The parameters are the fixture F0 of that file's head. -/

namespace Sys2Proof.Tests

open Sys2Proof Sys2Proof.Machine

/-! ## Fixture -/

/-- Fixture F0: `VT[i] = floor(i * 4095 / 120)`, both code tables `32 * v`, controller 1. -/
def f0 : Params where
  vt := Vector.ofFn fun i => BitVec.ofNat 12 (i.val * 4095 / 120)
  velToCode := Vector.ofFn fun i => BitVec.ofNat 12 (32 * i.val)
  ccToCode := Vector.ofFn fun i => BitVec.ofNat 12 (32 * i.val)
  ccNumber := 1
  ccChannel := none
  countMax := 255
  nClk := 2
  hasLed := false
  releaseZeroesSecondary := true
  retrigger := .extend

/-- The reset state under F0. -/
def s0 : State := State.resetWith f0

/-- `s0` with the primary channel as the tables of 2.3 write it: cnt, S, A, G0. -/
def primary (cnt : BitVec 8) (slide accent gate : Bool) : State :=
  { s0 with ch0 := { activeNoteCount := cnt, gate := gate, slide := slide, accent := accent } }

/-- A clock record: tc, di, P, ps. -/
def record (tc : BitVec 16) (di : BitVec 3) (p : Bool) (ps : Timestamp) : ClockChannel :=
  { tickCount := tc, divisionIndex := di, pulseActive := p, pulseStartTime := ps }

/-- `s0` at timestamp `now` with the two clock records of the tables of 2.6 to 2.8. -/
def clocks (run : Bool) (now : Timestamp) (a b : ClockChannel) : State :=
  { s0 with transportRunning := run, now := now, clk := [a, b] }

/-- A field of the next state, if there is one. -/
def after {α : Type} (o : Host.Outcome State Fault Refusal) (f : State → α) : Option α :=
  match o with
  | .next t => some (f t)
  | .fault _ => none
  | .refused _ => none

/-- The refusal, if there is one. -/
def refusal (o : Host.Outcome State Fault Refusal) : Option Refusal :=
  match o with
  | .next _ => none
  | .fault _ => none
  | .refused r => some r

/-! ## WellFormed smoke: the one check, R96 -/

theorem test_wf_refuses_absent_set_div : Instr.wf 2 (.setDiv 2 0) = false := by decide
theorem test_wf_refuses_absent_get_div : Instr.wf 2 (.getDiv 255) = false := by decide
theorem test_wf_accepts_last_channel : Instr.wf 2 (.setDiv 1 0) = true ∧ Instr.wf 3 (.getDiv 2) = true := by decide

/-! ## Decoding: each constructor's word, bit by bit from R91 and R95 -/

theorem test_decode_noteOff : decode 2 0b1000_0000_0110_0011_0111_1111#24 = .ok (.noteOff 0 99 127) := by decide
theorem test_decode_noteOn : decode 2 0b1001_0011_0000_0101_0110_0100#24 = .ok (.noteOn 3 5 100) := by decide
theorem test_decode_controlChange :
    decode 2 0b1011_0001_0000_0001_0101_0000#24 = .ok (.controlChange 1 1 80) := by decide
theorem test_decode_clock : decode 2 0b1111_1000_0000_0000_0000_0000#24 = .ok .clock := by decide
theorem test_decode_start : decode 2 0b1111_1010_0000_0000_0000_0000#24 = .ok .start := by decide
theorem test_decode_cont : decode 2 0b1111_1011_0000_0000_0000_0000#24 = .ok .cont := by decide
theorem test_decode_stop : decode 2 0b1111_1100_0000_0000_0000_0000#24 = .ok .stop := by decide
theorem test_decode_poll : decode 2 0b0000_0001_0000_0000_0000_0000#24 = .ok .poll := by decide
theorem test_decode_setDiv : decode 2 0b0000_0010_0000_0001_1111_1111#24 = .ok (.setDiv 1 255) := by decide
theorem test_decode_getDiv : decode 2 0b0000_0011_0000_0001_0000_0000#24 = .ok (.getDiv 1) := by decide

/-- The refused words of 2.9, with their reasons. -/
theorem test_decode_refusals :
    decode 2 0x80FF00 = .error .dataBit7Set ∧ decode 2 0x903C80 = .error .dataBit7Set ∧
    decode 2 0xA03C40 = .error .unassignedOpcode ∧ decode 2 0xE00040 = .error .unassignedOpcode ∧
    decode 2 0xF80100 = .error .nonzeroReservedField ∧ decode 2 0xF90000 = .error .unassignedOpcode ∧
    decode 2 0xFE0000 = .error .unassignedOpcode ∧ decode 2 0x010001 = .error .nonzeroReservedField ∧
    decode 2 0x000000 = .error .unassignedOpcode ∧ decode 2 0x04FFFF = .error .unassignedOpcode ∧
    decode 2 0x020200 = .error .clockChannelOutOfRange ∧ decode 2 0x030001 = .error .nonzeroReservedField ∧
    decode 2 0x030200 = .error .clockChannelOutOfRange ∧ decode 2 0x030201 = .error .clockChannelOutOfRange := by decide

/-- The words of 2.3, 2.5 and 2.8, encoded. -/
theorem test_encode :
    encode (.noteOn 0 60 100) = 0x903C64 ∧ encode (.noteOff 15 60 0) = 0x8F3C00 ∧
    encode (.controlChange 0 1 127) = 0xB0017F ∧ encode (.setDiv 0 0x80) = 0x020080 ∧
    encode (.getDiv 1) = 0x030100 := by decide

/-- The table's numbering: a 24-bit word as it stands (R91). -/
theorem test_decodeTableWord :
    decodeTableWord 24 0x903C64 = some (.noteOn 0 60 100) ∧ decodeTableWord 24 0xA03C40 = none := by decide

/-! ## Quantizer and codec -/

/-- Table 2.1. -/
theorem test_quantize :
    quantize 0 = 0 ∧ quantize 11 = 0 ∧ quantize 12 = 0 ∧ quantize 13 = 1 ∧ quantize 60 = 48 ∧ quantize 127 = 115 ∧
    quantize 132 = 120 ∧ quantize 133 = 120 ∧ quantize (-1) = 0 ∧ quantize 200 = 120 ∧ quantize 5 = 0 := by decide

/-- Table 2.1, the F0 codes. -/
theorem test_pitchCode :
    pitchCode f0 13 = 34 ∧ pitchCode f0 48 = 1228 ∧ pitchCode f0 127 = 3924 ∧ pitchCode f0 200 = 4095 := by decide

/-- Table 2.2. -/
theorem test_dacWord :
    dacWord .A 0 = 0x3000 ∧ dacWord .A 4095 = 0x3FFF ∧ dacWord .B 0 = 0xB000 ∧ dacWord .B 4095 = 0xBFFF ∧
    dacWord .A 0x1234 = 0x3234 ∧ dacWord .B 0x0A0 = 0xB0A0 := by decide

/-- Table 2.2, last row: the bytes, and the bits on the wire. -/
theorem test_frame_on_the_wire :
    frameActions ⟨1, 0xB0A0⟩ = [.csLow 1, .transfer 0xB0, .transfer 0xA0, .csHigh 1] ∧
    (frameActions ⟨1, 0xB0A0⟩).flatMap Event.dataBits =
      [true, false, true, true, false, false, false, false, true, false, true, false, false, false, false, false] := by
  decide

/-! ## One step per instruction -/

/-- Table 2.3, row 2. -/
theorem test_noteOn_primary :
    after (exec (.noteOn 0 64 81) (primary 1 false true true)) (fun t => (t.ch0, t.obs.frames)) =
      some (⟨2, true, true, true⟩, [⟨0, 0x36EE⟩]) := by decide

/-- Table 2.4, row 6: output channel 3 of MIDI channel 4. -/
theorem test_noteOn_secondary :
    after (exec (.noteOn 3 5 100) s0) (fun t => (t.ch, t.obs.frames)) =
      some (#v[⟨false⟩, ⟨false⟩, ⟨true⟩], [⟨3, 0x3000⟩, ⟨3, 0xBC80⟩]) := by decide

/-- Table 2.3, row 6. -/
theorem test_noteOff_primary :
    after (exec (.noteOff 0 99 127) (primary 1 false true true)) (fun t => (t.ch0, t.obs.frames)) =
      some (⟨0, false, false, false⟩, [⟨0, 0xB000⟩]) := by decide

/-- Table 2.4, row 4: the gate is already low. -/
theorem test_noteOff_secondary :
    after (exec (.noteOff 1 60 0) s0) (fun t => (t.ch, t.obs.frames)) =
      some (#v[⟨false⟩, ⟨false⟩, ⟨false⟩], [⟨1, 0xB000⟩]) := by decide

/-- Table 2.5, row 4. -/
theorem test_controlChange_consumed :
    after (exec (.controlChange 1 1 80) s0) (fun t => t.obs.frames) = some [⟨0, 0xBA00⟩] := by decide

/-- Table 2.5, rows 5 and 6. -/
theorem test_controlChange_not_consumed :
    after (exec (.controlChange 1 1 80) { s0 with params := { f0 with ccChannel := some 0 } })
      (fun t => t.obs.frames) = some [] ∧
    after (exec (.controlChange 0 2 80) s0) (fun t => t.obs.frames) = some [] := by decide

/-- Table 2.6, row 5 and row 6. -/
theorem test_clock_fires :
    after (exec .clock (clocks true 200 (record 5 0 false 0) (record 23 2 false 0))) (fun t => t.clk) =
      some [record 0 0 true 200, record 0 2 true 200] ∧
    after (exec .clock (clocks true 106 (record 5 0 true 103) (record 5 2 false 0))) (fun t => (t.clk, t.obs.events)) =
      some ([record 0 0 true 106, record 6 2 false 0], []) := by decide

/-- Table 2.6, row 1. -/
theorem test_clock_ignored_while_stopped :
    after (exec .clock { s0 with now := 50 }) (fun t => t.clk) = some s0.clk := by decide

/-- Table 2.6, row 7. -/
theorem test_start :
    after (exec .start (clocks true 300 (record 3 0 true 9) (record 17 2 true 9)))
      (fun t => (t.transportRunning, t.clk)) = some (true, [record 0 0 true 300, record 0 2 true 300]) := by decide

/-- Table 2.6, row 8. -/
theorem test_continue :
    after (exec .cont (clocks false 400 (record 0 0 false 9) (record 0 2 false 9)))
      (fun t => (t.transportRunning, t.clk)) = some (true, [record 0 0 true 400, record 0 2 true 400]) := by decide

/-- Table 2.6, row 9. -/
theorem test_stop :
    after (exec .stop (clocks true 103 (record 3 0 true 100) (record 9 2 true 100)))
      (fun t => (t.transportRunning, t.clk)) = some (false, [record 0 0 false 100, record 0 2 false 100]) := by decide

/-- Table 2.7, rows 2 and 4. -/
theorem test_poll_width :
    after (exec .poll (clocks true 110 (record 0 0 true 100) (record 0 2 true 100)))
      (fun t => t.clk.map (·.pulseActive)) = some [true, true] ∧
    after (exec .poll (clocks true 111 (record 0 0 true 100) (record 0 2 true 105)))
      (fun t => t.clk.map (·.pulseActive)) = some [false, true] := by decide

/-- Table 2.7, rows 5, 6 and 7: the timestamp wraps, and goes back. -/
theorem test_poll_modular :
    after (exec .poll (clocks true 5 (record 0 0 true 4294967291) (record 0 2 false 0)))
      (fun t => t.clk.map (·.pulseActive)) = some [true, false] ∧
    after (exec .poll (clocks true 6 (record 0 0 true 4294967291) (record 0 2 false 0)))
      (fun t => t.clk.map (·.pulseActive)) = some [false, false] ∧
    after (exec .poll (clocks true 90 (record 0 0 true 100) (record 0 2 false 0)))
      (fun t => t.clk.map (·.pulseActive)) = some [false, false] := by decide

/-- Table 2.8, rows 1 and 4. -/
theorem test_setDiv :
    after (exec (.setDiv 1 4) (clocks false 0 (record 3 0 false 0) (record 3 2 false 0))) (fun t => t.clk) =
      some [record 3 0 false 0, record 0 4 false 0] ∧
    after (exec (.setDiv 1 0xFF) s0) (fun t => t.clk.map (·.divisionIndex)) = some [0, 0] := by decide

/-- Table 2.8, rows 3, 5 and 6: the clamp. -/
theorem test_setDiv_clamps :
    after (exec (.setDiv 0 9) s0) (fun t => t.clk.map (·.divisionIndex)) = some [7, 2] ∧
    after (exec (.setDiv 0 127) s0) (fun t => t.clk.map (·.divisionIndex)) = some [7, 2] ∧
    after (exec (.setDiv 0 0x80) s0) (fun t => t.clk.map (·.divisionIndex)) = some [0, 2] := by decide

/-- Table 2.8, row 8. -/
theorem test_getDiv : after (exec (.getDiv 1) s0) (fun t => t.rdata) = some 2 := by decide

/-- Program 5: the second word is refused by name, and the first command's step is not undone by it. -/
theorem test_step_refuses :
    refusal (step (s0.withFetchWord 24 0xA03C40)) = some .unassignedOpcode ∧
    refusal (step s0) = some .endOfProgram := by decide

/-- The very next step after `withFetchWord` runs that instruction, from the core's own reset state (free tables). -/
theorem test_withFetchWord :
    after (step (State.reset.withFetchWord 24 0xFA0000)) (fun t => (t.transportRunning, t.pos)) = some (true, 1) ∧
    after (step (State.reset.withFetchWord 24 0x030100)) (fun t => t.rdata) = some 2 := by decide

/-! ## The assembler -/

set_option maxRecDepth 4000

/-- Programs 1 and 2: a line with a comment, a negative operand, a CONTROL_CHANGE. -/
theorem test_assemble_line :
    assemble 2 "@0 NOTE_ON  1, 60, 100     ; 903C64".toList = some [⟨0x903C64, 0⟩] ∧
    assemble 2 "@1014 SET_DIV 0, -2".toList = some [⟨0x0200FE, 1014⟩] ∧
    assemble 2 "CC 1, 1, 64".toList = some [⟨0xB00140, 0⟩] := by decide

/-- R108: a line without a prefix takes the timestamp of the line before; R109: pseudo-instructions. -/
theorem test_assemble_pseudo :
    assemble 2 "@7 TICKS 2\nRESTART\nNOTE_ON0 16, 0x7f".toList =
      some [⟨0xF80000, 7⟩, ⟨0xF80000, 7⟩, ⟨0xFC0000, 7⟩, ⟨0xFA0000, 7⟩, ⟨0x9F7F00, 7⟩] := by decide

/-- R107: an operand out of range is rejected, not wrapped. -/
theorem test_assemble_rejects :
    assemble 2 "NOTE_ON 1, 128, 0".toList = none ∧ assemble 2 "GET_DIV 2".toList = none ∧
    assemble 2 "TICKS 0".toList = none := by decide

/-! ## Witnesses: each statement's hypotheses are met by a concrete state and operands -/

theorem f0_legal : f0.Legal where
  vt_mono i j h := by
    have h' : i.val ≤ j.val := h
    have hi := i.isLt
    have hj := j.isLt
    simp only [f0, Fin.getElem_fin, Vector.getElem_ofFn, BitVec.toNat_ofNat]
    rw [Nat.mod_eq_of_lt (by omega), Nat.mod_eq_of_lt (by omega)]
    omega
  nClk_pos := by decide
  nClk_le := by decide
  countMax_pos := by decide

theorem witness_DecodeOfEncodeIsTheInstruction :
    Instr.wf 2 (.setDiv 1 0x80) = true ∧ Instr.wf 2 (.getDiv 1) = true ∧ Instr.wf 0 (.noteOn 15 127 127) = true := by
  decide

theorem witness_DecodedWordIsItsEncoding : decode 2 0x0201FF = .ok (.setDiv 1 0xFF) := by decide

theorem witness_NoWordMatchesTwoRows :
    rowOf (.getDiv 0) ∈ opcodeMap ∧ (rowOf (.getDiv 0)).matchesWord 0x03FF00 := ⟨by decide, rfl⟩

/-- Both sides of the equivalence are met: a word of no row, a word that fails the value check, a word that passes. -/
theorem witness_RefusedExactlyOutsideTheOpcodeMap :
    decode 2 0xA03C40 = .error .unassignedOpcode ∧ decode 2 0x020200 = .error .clockChannelOutOfRange ∧
    (rowOf (.setDiv 0 0)).matchesWord 0x0201FF ∧ (rowOf (.setDiv 0 0)).passes 2 0x0201FF :=
  ⟨by decide, by decide, rfl, fun _ => by decide⟩

theorem witness_StepRunsTheDecodedInstruction :
    (s0.withFetchWord 24 0x903C64).input = .command ⟨0x903C64, 0⟩ :: [] ∧
    decode s0.params.nClkTotal 0x903C64 = .ok (.noteOn 0 60 100) := by decide

/-- One word for each reason, and the empty input. -/
theorem witness_StepRefusesByName :
    decode s0.params.nClkTotal 0xF90000 = .error .unassignedOpcode ∧
    decode s0.params.nClkTotal 0x903C80 = .error .dataBit7Set ∧
    decode s0.params.nClkTotal 0x010001 = .error .nonzeroReservedField ∧
    decode s0.params.nClkTotal 0x030201 = .error .clockChannelOutOfRange ∧ s0.input = [] := by decide

theorem witness_LegalCommandsAlwaysStep :
    s0.clk.length = s0.params.nClkTotal ∧ (s0.withFetchWord 24 0x030100).input = .command ⟨0x030100, 0⟩ :: [] := by
  decide

theorem witness_CommandAdvancesThePosition :
    (s0.withFetchWord 24 0xFA0000).input = .command ⟨0xFA0000, 0⟩ :: [] ∧
    ∃ t, step (s0.withFetchWord 24 0xFA0000) = .next t := ⟨by decide, _, rfl⟩

theorem witness_ParametersNeverChange : ∃ t, step (s0.withFetchWord 24 0x903C64) = .next t := ⟨_, rfl⟩

/-- A clock channel at either end, and none beyond. -/
theorem witness_ResetValues :
    s0.clk[0]? = some (record 0 0 false 0) ∧ s0.clk[1]? = some (record 0 2 false 0) ∧ s0.clk[2]? = none := by decide

/-- The smallest core with an LED channel, whose channel 1 is the LED, and a core with a third clock output, with and
without an LED channel. -/
theorem witness_DefaultDivisions :
    1 ≤ ({ f0 with nClk := 1, hasLed := true } : Params).nClk ∧
    2 ≤ ({ f0 with nClk := 1, hasLed := true } : Params).nClkTotal ∧
    ({ f0 with nClk := 1, hasLed := true } : Params).hasLed = true ∧
    2 < ({ f0 with nClk := 3, hasLed := true } : Params).nClk ∧
    2 < ({ f0 with nClk := 3 } : Params).nClk ∧ f0.hasLed = false := by decide

theorem witness_HostResetRestoresTheResetState :
    ({ s0 with input := [.reset] } : State).input = .reset :: [] := by decide

/-- The ends of each range: 12 and 132 are in the first clause, 11 in the second, 133 in the third. -/
theorem witness_QuantizeSaturates :
    (12 : Int) ≤ 12 ∧ (12 : Int) ≤ 132 ∧ (132 : Int) ≤ 132 ∧ (11 : Int) < 12 ∧ (132 : Int) < 133 := by decide

theorem witness_PitchCodeReadsTheTable :
    f0.Legal ∧ ((0 : Fin 121).val : Int) = quantize 12 ∧ ((115 : Fin 121).val : Int) = quantize 127 ∧
    (12 : Int) ≤ 12 ∧ (12 : Int) ≤ 13 := ⟨f0_legal, by decide, by decide, by decide, by decide⟩

/-- The first and the last secondary channel: for NoteOnSecondary, NoteOffSecondary, PitchFrameBeforeGate and
NoteOffOrderOfEffects. -/
theorem witness_SecondaryChannels :
    (1 : ChannelNibble).toNat = (0 : Fin 3).val + 1 ∧ (3 : ChannelNibble).toNat = (2 : Fin 3).val + 1 := by decide

theorem witness_OtherMidiChannelsChangeNothing :
    5 ≤ midiChannel 4 ∧ 5 ≤ midiChannel 15 ∧ ¬ 5 ≤ midiChannel 3 := by decide

theorem primaryOk_idle : PrimaryOk (primary 0 false false false) := ⟨by decide, by decide, by decide, by decide⟩
theorem primaryOk_held : PrimaryOk (primary 1 false true true) := ⟨by decide, by decide, by decide, by decide⟩
theorem primaryOk_legato : PrimaryOk (primary 2 true true true) := ⟨by decide, by decide, by decide, by decide⟩
theorem primaryOk_full : PrimaryOk (primary 255 true true true) := ⟨by decide, by decide, by decide, by decide⟩

/-- One state for each row of the table: idle, held, legato at count 2, legato above it, and the saturated count. -/
theorem witness_PrimaryNoteStateTable :
    2 ≤ f0.countMax.toNat ∧
    (PrimaryOk (primary 0 false false false) ∧ noteStateOf 0 = .idle ∧
      ∃ t u, exec (.noteOn 0 60 100) (primary 0 false false false) = .next t ∧
        exec (.noteOff 0 60 0) (primary 0 false false false) = .next u) ∧
    (PrimaryOk (primary 1 false true true) ∧ noteStateOf 1 = .held ∧
      ∃ t u, exec (.noteOn 0 60 100) (primary 1 false true true) = .next t ∧
        exec (.noteOff 0 60 0) (primary 1 false true true) = .next u) ∧
    (PrimaryOk (primary 2 true true true) ∧ noteStateOf 2 = .legato ∧
      ∃ t u, exec (.noteOn 0 60 100) (primary 2 true true true) = .next t ∧
        exec (.noteOff 0 60 0) (primary 2 true true true) = .next u) ∧
    (PrimaryOk (primary 255 true true true) ∧ noteStateOf 255 = .legato ∧
      ∃ t u, exec (.noteOn 0 60 100) (primary 255 true true true) = .next t ∧
        exec (.noteOff 0 60 0) (primary 255 true true true) = .next u) :=
  ⟨by decide, ⟨primaryOk_idle, by decide, _, _, rfl, rfl⟩, ⟨primaryOk_held, by decide, _, _, rfl, rfl⟩,
    ⟨primaryOk_legato, by decide, _, _, rfl, rfl⟩, ⟨primaryOk_full, by decide, _, _, rfl, rfl⟩⟩

/-- At COUNT_MAX and at 0. -/
theorem witness_NoteCountSaturates :
    (∃ t, exec (.noteOn 0 60 100) (primary 255 true true true) = .next t) ∧
    (primary 255 true true true).ch0.activeNoteCount = f0.countMax ∧
    (∃ t, exec (.noteOff 0 60 0) (primary 0 false false false) = .next t) ∧
    (primary 0 false false false).ch0.activeNoteCount = 0 ∧
    (primary 255 true true true).ch0.activeNoteCount.toNat ≤ f0.countMax.toNat :=
  ⟨⟨_, rfl⟩, by decide, ⟨_, rfl⟩, by decide, by decide⟩

/-- The filter ANY, and a filter that admits the channel. -/
theorem witness_ConsumedControlChange :
    (1 : Data7) = f0.ccNumber ∧ f0.ccChannel = none ∧
    ({ f0 with ccChannel := some 2 } : Params).ccChannel = some 2 := by decide

/-- Another controller, and a filter that rejects the channel. -/
theorem witness_UnconsumedControlChange :
    (2 : Data7) ≠ f0.ccNumber ∧ ({ f0 with ccChannel := some 0 } : Params).ccChannel = some 0 ∧
    (0 : ChannelNibble) ≠ 1 := by decide

theorem witness_NoteCommandsStayInTheirChannel :
    isNote (.noteOn 0 60 100) = true ∧ isNote (.noteOff 3 60 0) = true ∧ isNote (.controlChange 0 1 64) = true ∧
    (∃ t, exec (.noteOn 0 60 100) s0 = .next t) ∧ (∃ t, exec (.noteOff 3 60 0) s0 = .next t) ∧
    (∃ t, exec (.controlChange 0 1 64) s0 = .next t) := ⟨rfl, rfl, rfl, ⟨_, rfl⟩, ⟨_, rfl⟩, ⟨_, rfl⟩⟩

/-- For ClockCommandsIgnoreTheNoteSection, OnlyFiresAndPollReadTheTimestamp and AtMostTwoFramesPerCommand as well. -/
theorem witness_ClockCommandsIgnoreTheNoteSection :
    isNote .clock = false ∧ (∃ t, exec .clock (clocks true 7 (record 5 0 true 1) (record 5 2 true 1)) = .next t) ∧
    isNote (.setDiv 1 7) = false ∧ (∃ t, exec (.setDiv 1 7) s0 = .next t) ∧
    isNote (.getDiv 0) = false ∧ (∃ t, exec (.getDiv 0) s0 = .next t) := ⟨rfl, ⟨_, rfl⟩, rfl, ⟨_, rfl⟩, rfl, ⟨_, rfl⟩⟩

/-- Each owner does write its piece of state. -/
theorem witness_StateIsWrittenByItsOwners :
    (∃ t, exec (.getDiv 1) s0 = .next t ∧ t.rdata ≠ s0.rdata) ∧
    (∃ t, exec .start s0 = .next t ∧ t.transportRunning ≠ s0.transportRunning ∧ t.clk ≠ s0.clk) ∧
    (∃ t, ∃ c d : ClockChannel, exec (.setDiv 0 3) s0 = .next t ∧ s0.clk[0]? = some c ∧ t.clk[0]? = some d ∧
      d.divisionIndex ≠ c.divisionIndex) ∧
    (∃ t, exec (.noteOn 0 60 100) s0 = .next t ∧ t.ch0 ≠ s0.ch0) :=
  ⟨⟨_, rfl, by decide⟩, ⟨_, rfl, by decide, by decide⟩, ⟨_, _, _, rfl, rfl, rfl, by decide⟩, ⟨_, rfl, by decide⟩⟩

/-- For OnlyFiresAndPollReadTheTimestamp: STOP is none of the four. -/
theorem witness_OnlyFiresAndPollReadTheTimestamp :
    Instr.stop ≠ .clock ∧ Instr.stop ≠ .start ∧ Instr.stop ≠ .cont ∧ Instr.stop ≠ .poll ∧
    ∃ t, exec .stop s0 = .next t := ⟨by decide, by decide, by decide, by decide, _, rfl⟩

/-- For AtMostTwoFramesPerCommand: a command that emits two. -/
theorem witness_AtMostTwoFramesPerCommand :
    ∃ t, exec (.noteOn 1 60 64) s0 = .next t ∧ t.obs.frames.length = 2 := ⟨_, rfl, by decide⟩

/-- Stopped; running one tick below the threshold; running at the threshold. -/
theorem witness_ClockCountsAndFires :
    s0.transportRunning = false ∧
    (clocks true 9 (record 4 0 false 0) (record 5 0 false 0)).transportRunning = true ∧
    (clocks true 9 (record 4 0 false 0) (record 5 0 false 0)).clk[0]? = some (record 4 0 false 0) ∧
    ¬ (record 4 0 false 0).threshold ≤ ((record 4 0 false 0).tickCount + 1).toNat ∧
    (record 5 0 false 0).threshold ≤ ((record 5 0 false 0).tickCount + 1).toNat := by decide

/-- For SetDivClampsAndResetsTheCount and GetDivReadsTheIndex: the last channel, and the bounds of the clamp. -/
theorem witness_SetDivClampsAndResetsTheCount :
    s0.clk[(1 : Byte).toNat]? = some (record 0 2 false 0) ∧
    (0xFF : Byte).toInt < 0 ∧ ¬ (0 : Byte).toInt < 0 ∧ ¬ (7 : Int) < (7 : Byte).toInt ∧ (7 : Int) < (8 : Byte).toInt := by
  decide

theorem witness_GetDivReadsTheIndex : s0.clk[(0 : Byte).toNat]? = some (record 0 0 false 0) := by decide

theorem witness_AbsentClockChannelIsRefused : s0.clk.length ≤ (2 : Byte).toNat := by decide

/-- Ended by STOP at once, and by POLL at elapsed 11. -/
theorem witness_OnlyPollAndStopEndAPulse :
    (∃ t, ∃ d : ClockChannel, exec .stop (clocks true 100 (record 0 0 true 100) (record 0 2 false 0)) = .next t ∧
      t.clk[0]? = some d ∧ d.pulseActive = false) ∧
    (∃ t, ∃ d : ClockChannel, exec .poll (clocks true 111 (record 0 0 true 100) (record 0 2 false 0)) = .next t ∧
      t.clk[0]? = some d ∧ d.pulseActive = false) := ⟨⟨_, _, rfl, rfl, by decide⟩, ⟨_, _, rfl, rfl, by decide⟩⟩

/-- Started by START, by CONTINUE, and by a CLOCK at the threshold. -/
theorem witness_OnlyAFireStartsAPulse :
    (∃ t, ∃ d : ClockChannel, exec .start s0 = .next t ∧ t.clk[0]? = some d ∧ d.pulseActive = true) ∧
    (∃ t, ∃ d : ClockChannel, exec .cont s0 = .next t ∧ t.clk[1]? = some d ∧ d.pulseActive = true) ∧
    (∃ t, ∃ d : ClockChannel, exec .clock (clocks true 7 (record 5 0 false 0) (record 0 2 false 0)) = .next t ∧
      t.clk[0]? = some d ∧ d.pulseActive = true) :=
  ⟨⟨_, _, rfl, rfl, by decide⟩, ⟨_, _, rfl, rfl, by decide⟩, ⟨_, _, rfl, rfl, by decide⟩⟩

/-- Channel 0 has an active pulse and channel 1 has none: for START, CONTINUE, and a CLOCK at the threshold of channel 0;
for a CLOCK below it; and for a CLOCK while stopped. -/
theorem witness_RetriggerExtendsThePulse :
    f0.retrigger = .extend ∧
    (clocks true 106 (record 5 0 true 103) (record 5 2 false 0)).clk[0]? = some (record 5 0 true 103) ∧
    (record 5 0 true 103).pulseActive = true ∧ (record 5 2 false 0).pulseActive = false ∧
    (clocks true 106 (record 5 0 true 103) (record 5 2 false 0)).transportRunning = true ∧
    (record 5 0 true 103).threshold ≤ ((record 5 0 true 103).tickCount + 1).toNat ∧
    ¬ (record 4 0 true 103).threshold ≤ ((record 4 0 true 103).tickCount + 1).toNat ∧
    (clocks false 106 (record 0 0 true 103) (record 0 2 false 0)).transportRunning = false := by decide

/-- A channel of threshold 6 from count 0, with no CLOCK, with five, and with six: below and at the threshold. -/
theorem witness_ChannelFiresEveryThresholdTicks :
    (clocks true 0 (record 0 0 false 0) (record 0 2 false 0)).transportRunning = true ∧
    (clocks true 0 (record 0 0 false 0) (record 0 2 false 0)).clk[0]? = some (record 0 0 false 0) ∧
    (record 0 0 false 0).tickCount = 0 ∧
    ([] : List Timestamp).length < (record 0 0 false 0).threshold ∧
    ([1, 2, 3, 4, 5] : List Timestamp).length < (record 0 0 false 0).threshold ∧
    (record 0 0 false 0).threshold ≤ ([1, 2, 3, 4, 5, 6] : List Timestamp).length := by decide

/-- After `SET_DIV 0, 0`, running and stopped: five CLOCKs and six. -/
theorem witness_SetDivRestartsTheTickCount :
    (clocks true 0 (record 4 3 false 0) (record 0 2 false 0)).transportRunning = true ∧
    (clocks true 0 (record 4 3 false 0) (record 0 2 false 0)).clk[(0 : Byte).toNat]? = some (record 4 3 false 0) ∧
    (clocks false 0 (record 0 3 false 0) (record 0 2 false 0)).transportRunning = false ∧
    (clocks false 0 (record 0 3 false 0) (record 0 2 false 0)).clk[(0 : Byte).toNat]? = some (record 0 3 false 0) ∧
    ([1, 2, 3, 4, 5] : List Timestamp).length < ticksPerPulse (requestedIndex 0) ∧
    ([1, 2, 3, 4, 5, 6] : List Timestamp).length = ticksPerPulse (requestedIndex 0) := by decide

/-- POLLs at elapsed 10 and 11, and a SET_DIV between them. -/
theorem witness_PulseStaysHighUntilItExpires :
    (∀ x ∈ ([(110, .poll), (110, .setDiv 0 3), (111, .poll)] : List (Timestamp × Instr)),
      x.2 ≠ .clock ∧ x.2 ≠ .start ∧ x.2 ≠ .cont ∧ x.2 ≠ .stop) ∧
    (∃ t, execTimed [(110, .poll), (110, .setDiv 0 3), (111, .poll)]
      (clocks true 100 (record 0 0 true 100) (record 0 2 false 0)) = .next t) ∧
    (clocks true 100 (record 0 0 true 100) (record 0 2 false 0)).clk[0]? = some (record 0 0 true 100) ∧
    (record 0 0 true 100).pulseActive = true := ⟨by decide, ⟨_, rfl⟩, by decide, by decide⟩

/-- Back by 10 ms (table 2.7, row 7), and by the two ends of the range. -/
theorem witness_TimeGoingBackRetractsAtOnce :
    (clocks true 90 (record 0 0 true 100) (record 0 2 false 0)).clk[0]? = some (record 0 0 true 100) ∧
    (90 : Timestamp) = 100 - BitVec.ofNat 32 10 ∧ 0 < 10 ∧ 10 < 2 ^ 32 - 10 ∧
    (99 : Timestamp) = 100 - BitVec.ofNat 32 1 ∧ (111 : Timestamp) = 100 - BitVec.ofNat 32 (2 ^ 32 - 11) ∧
    2 ^ 32 - 11 < 2 ^ 32 - 10 := by decide

theorem witness_SameTimestampOrder :
    (clocks true 7 (record 5 0 false 0) (record 0 2 false 0)).clk[0]? = some (record 5 0 false 0) ∧
    (clocks true 7 (record 5 0 false 0) (record 0 2 false 0)).transportRunning = true ∧
    (record 5 0 false 0).threshold ≤ ((record 5 0 false 0).tickCount + 1).toNat := by decide

/-- The state the invariants' witnesses start from: a held note, running clocks, and a NOTE_OFF to take. -/
def running : State :=
  { primary 1 false true true with
    transportRunning := true
    clk := [record 5 0 false 0, record 23 2 false 0]
    input := [.command ⟨0x803C00, 7⟩]
    obs := { Obs.reset with events := [.line (.gate 0) true, .line .accent true] } }

theorem witness_StepKeepsPrimaryInvariants :
    1 ≤ running.params.countMax.toNat ∧ PrimaryOk running ∧ ∃ t, step running = .next t :=
  ⟨by decide, ⟨by decide, by decide, by decide, by decide⟩, _, rfl⟩

theorem witness_StepKeepsClockInvariants : ClocksOk running ∧ ∃ t, step running = .next t :=
  ⟨⟨by decide, by decide, by decide, by decide⟩, _, rfl⟩

theorem witness_StepKeepsTheObservationTrue : ObservationOk running ∧ ∃ t, step running = .next t := by
  refine ⟨⟨by decide, by decide, by decide, by decide, fun l => ?_, by decide⟩, _, rfl⟩
  cases l with
  | gate k => revert k; decide
  | slide => decide
  | accent => decide
  | pulse j =>
    match j with
    | 0 => decide
    | 1 => decide
    | j + 2 => rfl

theorem witness_UnwrittenUntilTheFirstFrame : ObservationOk running := witness_StepKeepsTheObservationTrue.1

/-- Both ends of each operand range, in each clause: the last value in it and the first beyond. -/
theorem witness_AssemblerExpandsAndRejects :
    assembleLine 2 "NOTE_ON" [16, 127, 0] = some [.noteOn 15 127 0] ∧
    assembleLine 2 "NOTE_OFF" [1, 0, 127] = some [.noteOff 0 0 127] ∧
    assembleLine 2 "CC" [2, 1, 80] = some [.controlChange 1 1 80] ∧
    assembleLine 2 "NOTE_OFF" [17, 0, 0] = none ∧ assembleLine 2 "CC" [0, 0, 0] = none ∧
    assembleLine 2 "CC" [1, 128, 0] = none ∧ assembleLine 2 "NOTE_OFF" [1, 0, -1] = none ∧
    assembleLine 17 "SET_DIV" [16, -128] = some [.setDiv 16 0x80] ∧ assembleLine 17 "SET_DIV" [17, 0] = none ∧
    assembleLine 2 "SET_DIV" [0, 128] = none ∧ assembleLine 2 "SET_DIV" [1, 127] = some [.setDiv 1 127] ∧
    assembleLine 17 "GET_DIV" [16] = some [.getDiv 16] ∧ assembleLine 2 "GET_DIV" [-1] = none := by decide

end Sys2Proof.Tests
end

section
/-! The note count of the primary channel (10_state.md R34): what one command can do to it, and that both ends saturate. -/

namespace Sys2Proof.Machine

theorem satInc_toNat_le_max (x max : BitVec 8) : (satInc x max).toNat ≤ max.toNat := by
  rw [satInc_toNat]
  exact min_le_right _ _

theorem satInc_max (max : BitVec 8) : satInc max max = max := by
  apply BitVec.eq_of_toNat_eq
  rw [satInc_toNat]
  omega

theorem satDec_toNat_le (x : BitVec 8) : (satDec x).toNat ≤ x.toNat := by
  rw [satDec_toNat]
  exact Nat.sub_le _ _

theorem satDec_zero : satDec 0 = 0 := rfl

/-- Only the two note commands on the primary channel write the note count (R34, R143, R145). -/
theorem exec_activeNoteCount_cases {i : Instr} {s t : State} (h : exec i s = .next t) :
    (∃ p v, i = .noteOn 0 p v ∧
      t.ch0.activeNoteCount = satInc s.ch0.activeNoteCount s.params.countMax) ∨
    (∃ p v, i = .noteOff 0 p v ∧ t.ch0.activeNoteCount = satDec s.ch0.activeNoteCount) ∨
    t.ch0.activeNoteCount = s.ch0.activeNoteCount := by
  rcases exec_cases h with ⟨p, v, hi, rfl⟩ | ⟨k, c, p, v, -, -, rfl⟩ | ⟨p, v, hi, rfl⟩ | ⟨k, c, p, v, -, -, rfl⟩ |
    ⟨c, p, v, -, -, rfl⟩ | ⟨c, n, v, -, -, rfl⟩ | ⟨c, n, v, -, -, rfl⟩ | ⟨-, -, rfl⟩ | ⟨-, -, rfl⟩ | ⟨-, rfl⟩ |
    ⟨-, rfl⟩ | ⟨-, rfl⟩ | ⟨j, r, c, -, -, rfl⟩ | ⟨j, c, -, -, rfl⟩
  case inl => exact .inl ⟨p, v, hi, noteOnPrimary_count p v s⟩
  case inr.inr.inl => exact .inr (.inl ⟨p, v, hi, noteOffPrimary_count s⟩)
  all_goals exact .inr (.inr rfl)

/-- No command takes the note count above COUNT_MAX (R34). -/
theorem exec_activeNoteCount_le {i : Instr} {s t : State} (h : exec i s = .next t)
    (hle : s.ch0.activeNoteCount.toNat ≤ s.params.countMax.toNat) :
    t.ch0.activeNoteCount.toNat ≤ s.params.countMax.toNat := by
  obtain ⟨p, v, -, hinc⟩ | ⟨p, v, -, hdec⟩ | hkeep := exec_activeNoteCount_cases h
  · rw [hinc]
    exact satInc_toNat_le_max _ _
  · rw [hdec]
    exact (satDec_toNat_le _).trans hle
  · rw [hkeep]
    exact hle

/-- Settles O29: the bound by the cases of what a command does to the count, the two ends by the saturating
operations at COUNT_MAX and at 0. -/
theorem noteCountSaturates : Obligations.NoteCountSaturates := by
  unfold Obligations.NoteCountSaturates
  intro i s t h hle
  refine ⟨exec_activeNoteCount_le h hle, ?_, ?_⟩
  · rintro p v rfl hmax
    cases h
    exact (noteOnPrimary_count p v s).trans (hmax ▸ satInc_max _)
  · rintro p v rfl hzero
    cases h
    exact (noteOffPrimary_count s).trans (hzero ▸ satDec_zero)

end Sys2Proof.Machine
end


section
/-! The serial data line (20_memory.md R76): the bits of one byte of a word, and those of a whole frame. -/

namespace Sys2Proof.Machine

/-- The byte of `w` that starts at bit `k` goes out as `w[k+7], ..., w[k]` (R76). -/
theorem msbFirst_extractLsb' (w : DacWord) (k : Nat) :
    msbFirst (w.extractLsb' k 8) = (List.range 8).map fun i => w.getLsbD (k + (7 - i)) := by
  simp [msbFirst, List.range_succ]

/-- Only the two transfers of a frame drive the data line, the high byte's before the low byte's (R76, R106). -/
theorem dataBits_frameActions (f : Frame) :
    (frameActions f).flatMap Event.dataBits = msbFirst (highByte f.word) ++ msbFirst (lowByte f.word) := rfl

/-- The two bytes of a word, each most significant bit first, are its bits from 15 down to 0 (R76). -/
theorem msbFirst_highByte_append_lowByte (w : DacWord) :
    msbFirst (highByte w) ++ msbFirst (lowByte w) = (List.range 16).map fun i => w.getLsbD (15 - i) := by
  rw [highByte, lowByte, msbFirst_extractLsb', msbFirst_extractLsb']
  rfl

/-- Settles O20: the four bus actions are the frame's own, and their bits are those of the high byte followed by
those of the low byte. -/
theorem frameBitsOnTheWire : Obligations.FrameBitsOnTheWire := by
  unfold Obligations.FrameBitsOnTheWire
  exact fun d w => ⟨rfl, (dataBits_frameActions ⟨d, w⟩).trans (msbFirst_highByte_append_lowByte w)⟩

end Sys2Proof.Machine
end


section
/-! The DAC command word field by field (30_encoding.md R103, R104): what the sub-channel, the legality and the code of
a word say about its bits. -/

namespace Sys2Proof.Machine

/-- Bit 15 is the sub-channel a word addresses (R104). -/
theorem getLsbD_fifteen_eq_subOf (w : DacWord) : w.getLsbD 15 = decide (subOf w = .B) := by
  unfold subOf
  cases w.getLsbD 15 <;> rfl

/-- A legal word holds 0, 1, 1 in bits 14, 13, 12 (R104). -/
theorem getLsbD_of_legal {w : DacWord} (h : w &&& 0x7000#16 = 0x3000#16) :
    w.getLsbD 14 = false ∧ w.getLsbD 13 = true ∧ w.getLsbD 12 = true := by
  have hbit (i : Nat) : (w.getLsbD i && (0x7000#16).getLsbD i) = (0x3000#16).getLsbD i := by
    rw [← BitVec.getLsbD_and, h]
  exact ⟨by simpa using hbit 14, by simpa using hbit 13, by simpa using hbit 12⟩

/-- The word is the expression of R103. -/
theorem dacWord_eq_or (sub : SubChannel) (code : BitVec 16) :
    dacWord sub code = (if sub = .B then 0x9000#16 else 0x1000#16) ||| 0x2000#16 ||| (code &&& 0x0FFF#16) := by
  cases sub <;> rfl

/-- Bits 11:0 of the word are the low 12 bits of the code (R103, R105). -/
theorem extractLsb'_dacWord (sub : SubChannel) (code : BitVec 16) :
    (dacWord sub code).extractLsb' 0 12 = code.extractLsb' 0 12 :=
  (codeOf_dacWord sub code).trans (BitVec.setWidth_eq_extractLsb' (by decide))

/-- Settles O19: bit 15 by the sub-channel read back from the word, bits 14:12 by the word's legality, bits 11:0 by the
code read back from it. -/
theorem dacWordEncoding : Obligations.DacWordEncoding := by
  unfold Obligations.DacWordEncoding
  intro sub code
  have hsub : (dacWord sub code).getLsbD 15 = decide (sub = .B) := by
    rw [getLsbD_fifteen_eq_subOf, subOf_dacWord]
  obtain ⟨h14, h13, h12⟩ := getLsbD_of_legal (dacWord_legal sub code)
  exact ⟨dacWord_eq_or sub code, hsub, h14, h13, h12, extractLsb'_dacWord sub code, rfl, rfl⟩

end Sys2Proof.Machine
end


section
/-! The quantizer and the Voltage Table (40_quantizer_dac.md R120 to R123): the three ranges of `quantize`, and what
they and the order of the table say about `pitchCode`. -/

namespace Sys2Proof.Machine

theorem clampInt_of_lt {x lo hi : Int} (h : x < lo) : clampInt x lo hi = lo := if_pos h

theorem clampInt_of_gt {x lo hi : Int} (hle : lo ≤ hi) (h : hi < x) : clampInt x lo hi = hi := by
  rw [clampInt, if_neg (by omega), if_pos h]

theorem clampInt_of_mem {x lo hi : Int} (hlo : lo ≤ x) (hhi : x ≤ hi) : clampInt x lo hi = x := by
  rw [clampInt, if_neg (by omega), if_neg (by omega)]

theorem quantize_of_mem {p : Int} (hlo : 12 ≤ p) (hhi : p ≤ 132) : quantize p = p - 12 :=
  clampInt_of_mem (x := p - 12) (lo := 0) (hi := 120) (by omega) (by omega)

theorem quantize_of_lt {p : Int} (h : p < 12) : quantize p = 0 :=
  clampInt_of_lt (x := p - 12) (hi := 120) (by omega)

theorem quantize_of_gt {p : Int} (h : 132 < p) : quantize p = 120 :=
  clampInt_of_gt (x := p - 12) (lo := 0) (hi := 120) (by decide) (by omega)

/-- A pitch a command can carry stays short of the end of the table (R121). -/
theorem quantize_data7_le (d : Data7) : quantize d.toNat ≤ 115 := by
  have hd : (d.toNat : Int) ≤ 127 := by have := d.isLt; omega
  calc quantize d.toNat ≤ quantize 127 := quantize_mono hd
    _ = 115 := quantize_of_mem (by decide) (by decide)

/-- Settles O16: the three ranges of the clamp, and monotonicity, which bounds a 7-bit pitch by the value at 127. -/
theorem quantizeSaturates : Obligations.QuantizeSaturates := by
  unfold Obligations.QuantizeSaturates
  exact ⟨fun p hlo hhi => ⟨quantize_of_mem hlo hhi, quantize_range p⟩, fun _ => quantize_of_lt, fun _ => quantize_of_gt,
    fun _ _ => quantize_mono, quantize_data7_le⟩

/-- The quantized pitch is an index of the Voltage Table (R72). -/
theorem exists_fin_eq_quantize (pitch : Int) : ∃ i : Fin 121, (i.val : Int) = quantize pitch := by
  obtain ⟨hlo, hhi⟩ := quantize_range pitch
  exact ⟨⟨(quantize pitch).toNat, by omega⟩, Int.toNat_of_nonneg hlo⟩

/-- Up to pitch 12 the code is the one for 0 V (R123). -/
theorem pitchCode_of_le (p : Params) {pitch : Int} (h : pitch ≤ 12) : pitchCode p pitch = p.vt[0] := by
  have hzero : quantize pitch = 0 := by
    obtain hlt | rfl := lt_or_eq_of_le h
    · exact quantize_of_lt hlt
    · exact quantize_of_mem le_rfl (by decide)
  exact pitchCode_eq p pitch 0 hzero.symm

/-- The table is read in order, so a non-decreasing table gives non-decreasing codes (R71, R123). -/
theorem pitchCode_mono {p : Params} (hp : p.Legal) {a b : Int} (h : a ≤ b) :
    (pitchCode p a).toNat ≤ (pitchCode p b).toNat := by
  obtain ⟨i, hi⟩ := exists_fin_eq_quantize a
  obtain ⟨j, hj⟩ := exists_fin_eq_quantize b
  have hij : i ≤ j := by
    have := quantize_mono h
    rw [Fin.le_def]
    omega
  rw [pitchCode_eq p a i hi, pitchCode_eq p b j hj]
  exact hp.vt_mono i j hij

/-- Settles O17: the read at the quantized index, index 0 up to pitch 12, and the order of the indices. -/
theorem pitchCodeReadsTheTable : Obligations.PitchCodeReadsTheTable := by
  unfold Obligations.PitchCodeReadsTheTable
  exact fun p hp => ⟨pitchCode_eq p, fun _ => pitchCode_of_le p, fun _ _ => pitchCode_mono hp⟩

end Sys2Proof.Machine
end


section
/-! The outputs after a frame (40_quantizer_dac.md R127): the output a frame addresses holds its code, every other
output what it held. -/

namespace Sys2Proof.Machine

@[simp] theorem DacOutputs.get_put_same (o : DacOutputs) (sub : SubChannel) (code : Code) :
    (o.put sub code).get sub = some code := by
  cases sub <;> rfl

theorem DacOutputs.get_put_of_ne (o : DacOutputs) {sub other : SubChannel} (code : Code) (h : other ≠ sub) :
    (o.put sub code).get other = o.get other := by
  cases sub with
  | A =>
    cases other with
    | A => exact absurd rfl h
    | B => rfl
  | B =>
    cases other with
    | A => rfl
    | B => exact absurd rfl h

theorem cvAfterFrame_get_addressed (cv : Vector DacOutputs 4) (f : Frame) :
    (cvAfterFrame cv f)[f.device].get (subOf f.word) = some (codeOf f.word) := by
  simp [cvAfterFrame]

theorem cvAfterFrame_get_other (cv : Vector DacOutputs 4) (f : Frame) {e : Fin 4} {other : SubChannel}
    (h : ¬ (e = f.device ∧ other = subOf f.word)) : (cvAfterFrame cv f)[e].get other = cv[e].get other := by
  by_cases he : e = f.device
  · subst he
    simpa [cvAfterFrame] using DacOutputs.get_put_of_ne _ _ fun hsub => h ⟨rfl, hsub⟩
  · have hval : f.device.val ≠ e.val := fun heq => he (Fin.ext heq.symm)
    simp [cvAfterFrame, Vector.getElem_set_ne _ _ hval]

theorem dacFrame_clockSide (s : State) (d : Fin 4) (w : DacWord) : SameClockSide s (s.dacFrame d w) := ⟨rfl, rfl, rfl⟩

theorem dacFrame_hostSide (s : State) (d : Fin 4) (w : DacWord) : SameHostSide s (s.dacFrame d w) :=
  ⟨rfl, rfl, rfl, rfl, rfl⟩

/-- Settles O21: `sendVoltage` is one frame, whose word reads back as the sub-channel and the low 12 bits of the code. -/
theorem sendVoltageEmitsOneFrame : Obligations.SendVoltageEmitsOneFrame := by
  unfold Obligations.SendVoltageEmitsOneFrame
  intro s d sub code
  simp only [State.sendVoltage_eq]
  refine ⟨s.dacFrame_frames d _, s.dacFrame_events d _, ?_, fun e other h => ?_, s.dacFrame_ch0 d _, s.dacFrame_ch d _,
    dacFrame_clockSide s d _, dacFrame_hostSide s d _⟩
  · have hget := cvAfterFrame_get_addressed s.obs.cv ⟨d, dacWord sub code⟩
    rw [subOf_dacWord] at hget
    exact hget.trans (congrArg some (extractLsb'_dacWord sub code))
  · exact cvAfterFrame_get_other s.obs.cv ⟨d, dacWord sub code⟩ (by rwa [subOf_dacWord])

end Sys2Proof.Machine
end


section
/-! A CONTROL_CHANGE that is not consumed (41_note_events.md R149, R150): what the filter rejects, and what `exec` then
answers. -/

namespace Sys2Proof.Machine

/-- The filter rejects another controller, and another channel than the one it names (R149). -/
theorem ccConsumed_eq_false_iff (p : Params) (c : ChannelNibble) (controller : Data7) :
    ccConsumed p c controller = false ↔
      controller ≠ p.ccNumber ∨ ∃ c', p.ccChannel = some c' ∧ c' ≠ c := by
  cases hc : p.ccChannel with
  | none => simp [ccConsumed, hc]
  | some c' => simp [ccConsumed, hc, imp_iff_not_or, @eq_comm _ c c']

theorem exec_controlChange_consumed {s : State} {c : ChannelNibble} {controller : Data7} (value : Data7)
    (h : ccConsumed s.params c controller = true) :
    exec (.controlChange c controller value) s = .next (s.writeSecondary 0 (controllerCode s.params value)) := by
  rw [exec, execControlChange, if_pos h]

theorem exec_controlChange_unconsumed {s : State} {c : ChannelNibble} {controller : Data7} (value : Data7)
    (h : ccConsumed s.params c controller = false) : exec (.controlChange c controller value) s = .next s := by
  rw [exec, execControlChange, if_neg (Bool.not_eq_true _ ▸ h)]

/-- Settles O33: either reason makes the filter reject the command, and `exec` then answers the state it was given. -/
theorem unconsumedControlChange : Obligations.UnconsumedControlChange := by
  unfold Obligations.UnconsumedControlChange
  intro s c controller value h
  exact exec_controlChange_unconsumed value ((ccConsumed_eq_false_iff _ _ _).mpr h)

end Sys2Proof.Machine
end


section
/-! NOTE_ON on the primary channel (41_note_events.md R143): the fields of its word, and the outputs after its one
frame. -/

namespace Sys2Proof.Machine

theorem opField_encode_noteOn (c : ChannelNibble) (p v : Data7) :
    opField (encode (.noteOn c p v)) = chanOp 0x9#4 c := opField_packWord ..

theorem d1Field_encode_noteOn (c : ChannelNibble) (p v : Data7) :
    d1Field (encode (.noteOn c p v)) = dataByte p := d1Field_packWord ..

theorem d2Field_encode_noteOn (c : ChannelNibble) (p v : Data7) :
    d2Field (encode (.noteOn c p v)) = dataByte v := d2Field_packWord ..

/-- A frame leaves the outputs of every other device alone (R127). -/
theorem cvAfterFrame_getElem_of_ne (cv : Vector DacOutputs 4) (f : Frame) {d : Fin 4} (h : d ≠ f.device) :
    (cvAfterFrame cv f)[d] = cv[d] :=
  Vector.getElem_set_ne _ _ fun heq => h (Fin.ext heq.symm)

/-- The pitch frame of NOTE_ON on the primary channel, as the word of R143 step 2. -/
theorem noteOnPrimary_pitch_frame (pitch velocity : Data7) (s : State) :
    (noteOnPrimary pitch velocity s).obs.frames =
      s.obs.frames ++ [⟨0, 0x3000#16 ||| (pitchCode s.params pitch.toNat).setWidth 16⟩] := by
  rw [noteOnPrimary_frames, dacWord_A]

/-- On device 0, the pitch frame replaces output A alone (R143). -/
theorem noteOnPrimary_cv_zero (pitch velocity : Data7) (s : State) :
    (noteOnPrimary pitch velocity s).obs.cv[0] = ⟨some (pitchCode s.params pitch.toNat), s.obs.cv[0].b⟩ := by
  rw [noteOnPrimary_cv, cvAfterFrame_A]
  exact Vector.getElem_set_self _

theorem noteOnPrimary_cv_of_ne (pitch velocity : Data7) (s : State) {d : Fin 4} (h : d ≠ 0) :
    (noteOnPrimary pitch velocity s).obs.cv[d] = s.obs.cv[d] := by
  rw [noteOnPrimary_cv]
  exact cvAfterFrame_getElem_of_ne _ _ h

/-- Settles O22: the fields of the word, then each field of the state `noteOnPrimary` leaves. -/
theorem noteOnPrimary_spec : Obligations.NoteOnPrimary := by
  unfold Obligations.NoteOnPrimary
  intro s pitch velocity
  refine ⟨?_, ?_, ?_, noteOnPrimary pitch velocity s, exec_noteOn_primary .., ?_, noteOnPrimary_gate ..,
    noteOnPrimary_accent .., ?_, noteOnPrimary_pitch_frame .., ?_, ?_, fun _ => noteOnPrimary_cv_of_ne _ _ _,
    noteOnPrimary_ch .., noteOnPrimary_clockSide .., noteOnPrimary_hostSide ..⟩
  · rw [opField_encode_noteOn]
    rfl
  · rw [d1Field_encode_noteOn, toNat_dataByte]
  · rw [d2Field_encode_noteOn, toNat_dataByte]
  · rw [noteOnPrimary_count, satInc_toNat]
  · rw [noteOnPrimary_slide, noteOnPrimary_count]
  · rw [noteOnPrimary_cv_zero]
  · rw [noteOnPrimary_cv_zero]

end Sys2Proof.Machine
end


section
/-! The note section by itself (41_note_events.md R152): a note command keeps to its own channel and device, and neither
reads nor writes the clock section. -/

namespace Sys2Proof.Machine

/-- What a note command does: it goes to the primary channel, to a secondary one or nowhere; a CONTROL_CHANGE is consumed
or not (R140, R149). -/
theorem exec_note_cases {i : Instr} {s t : State} (hi : isNote i = true) (h : exec i s = .next t) :
    (∃ p v, i = .noteOn 0 p v ∧ t = noteOnPrimary p v s) ∨
    (∃ k : Fin 3, ∃ c p v, i = .noteOn c p v ∧ c.toNat = k.val + 1 ∧ t = noteOnSecondary k p v s) ∨
    (∃ p v, i = .noteOff 0 p v ∧ t = noteOffPrimary s) ∨
    (∃ k : Fin 3, ∃ c p v, i = .noteOff c p v ∧ c.toNat = k.val + 1 ∧ t = noteOffSecondary k s) ∨
    (∃ c p v, (i = .noteOn c p v ∨ i = .noteOff c p v) ∧ 4 ≤ c.toNat ∧ t = s) ∨
    (∃ c n v, i = .controlChange c n v ∧ ccConsumed s.params c n = true ∧
      t = s.writeSecondary 0 (controllerCode s.params v)) ∨
    (∃ c n v, i = .controlChange c n v ∧ ccConsumed s.params c n = false ∧ t = s) := by
  rcases exec_cases h with h | h | h | h | h | h | h | ⟨rfl, -⟩ | ⟨rfl, -⟩ | ⟨rfl | rfl, -⟩ | ⟨rfl, -⟩ | ⟨rfl, -⟩ |
    ⟨_, _, _, rfl, -⟩ | ⟨_, _, rfl, -⟩
  · exact .inl h
  · exact .inr (.inl h)
  · exact .inr (.inr (.inl h))
  · exact .inr (.inr (.inr (.inl h)))
  · exact .inr (.inr (.inr (.inr (.inl h))))
  · exact .inr (.inr (.inr (.inr (.inr (.inl h)))))
  · exact .inr (.inr (.inr (.inr (.inr (.inr h)))))
  all_goals cases hi

/-- A note command writes nothing of the clock section (R152). -/
theorem exec_note_clockSide {i : Instr} {s t : State} (hi : isNote i = true) (h : exec i s = .next t) :
    SameClockSide s t := by
  rcases exec_note_cases hi h with ⟨p, v, -, rfl⟩ | ⟨k, c, p, v, -, -, rfl⟩ | ⟨p, v, -, rfl⟩ |
    ⟨k, c, p, v, -, -, rfl⟩ | ⟨c, p, v, -, -, rfl⟩ | ⟨c, n, v, -, -, rfl⟩ | ⟨c, n, v, -, -, rfl⟩
  · exact noteOnPrimary_clockSide ..
  · exact noteOnSecondary_clockSide ..
  · exact noteOffPrimary_clockSide ..
  · exact noteOffSecondary_clockSide ..
  · exact ⟨rfl, rfl, rfl⟩
  · exact dacFrame_clockSide ..
  · exact ⟨rfl, rfl, rfl⟩

/-! ## The clock section is not read -/

theorem noteOnPrimary_withClockSide (pitch velocity : Data7) (s : State) (clk : List ClockChannel) (running : Bool)
    (rdata : Byte) :
    noteOnPrimary pitch velocity (s.withClockSide clk running rdata) =
      (noteOnPrimary pitch velocity s).withClockSide clk running rdata := by
  rw [noteOnPrimary_eq pitch velocity s, apply_ite fun u : State => u.withClockSide clk running rdata]
  rfl

theorem noteOffPrimary_withClockSide (s : State) (clk : List ClockChannel) (running : Bool) (rdata : Byte) :
    noteOffPrimary (s.withClockSide clk running rdata) = (noteOffPrimary s).withClockSide clk running rdata := by
  rw [noteOffPrimary_eq, noteOffPrimary_eq s]
  simp only [apply_ite fun u : State => u.withClockSide clk running rdata]
  rfl

theorem exec_noteOn_ignored {c : ChannelNibble} (pitch velocity : Data7) (s : State) (h : 4 ≤ c.toNat) :
    exec (.noteOn c pitch velocity) s = .next s := by
  rw [exec, execNoteOn, route_ignored h]

theorem exec_noteOff_ignored {c : ChannelNibble} (pitch velocity : Data7) (s : State) (h : 4 ≤ c.toNat) :
    exec (.noteOff c pitch velocity) s = .next s := by
  rw [exec, execNoteOff, route_ignored h]

/-- With any other clock section, a note command does the same to the rest (R152). -/
theorem exec_note_withClockSide {i : Instr} {s t : State} (hi : isNote i = true) (h : exec i s = .next t)
    (clk : List ClockChannel) (running : Bool) (rdata : Byte) :
    exec i (s.withClockSide clk running rdata) = .next (t.withClockSide clk running rdata) := by
  rcases exec_note_cases hi h with ⟨p, v, rfl, rfl⟩ | ⟨k, c, p, v, rfl, hc, rfl⟩ | ⟨p, v, rfl, rfl⟩ |
    ⟨k, c, p, v, rfl, hc, rfl⟩ | ⟨c, p, v, rfl | rfl, hc, rfl⟩ | ⟨c, n, v, rfl, hc, rfl⟩ | ⟨c, n, v, rfl, hc, rfl⟩
  · rw [exec_noteOn_primary, noteOnPrimary_withClockSide]
  · exact exec_noteOn_secondary p v _ hc
  · rw [exec_noteOff_primary, noteOffPrimary_withClockSide]
  · exact exec_noteOff_secondary p v _ hc
  · exact exec_noteOn_ignored p v _ hc
  · exact exec_noteOff_ignored p v _ hc
  · exact exec_controlChange_consumed v hc
  · exact exec_controlChange_unconsumed v hc

/-! ## One channel, one device -/

/-- The frames that `t` has beyond those of `s` all go to device number `d`. -/
def AddsFramesOnlyTo (d : Nat) (s t : State) : Prop :=
  ∃ added, t.obs.frames = s.obs.frames ++ added ∧ ∀ f ∈ added, f.device.val = d

/-- From `s` to `t`, frames go to the device of nibble `c` only, and no record but that of output channel `c` changes. -/
structure StaysInChannel (c : ChannelNibble) (s t : State) : Prop where
  frames : AddsFramesOnlyTo c.toNat s t
  ch0 : c ≠ 0 → t.ch0 = s.ch0
  ch : ∀ k : Fin 3, k.val + 1 ≠ c.toNat → t.ch[k] = s.ch[k]

theorem AddsFramesOnlyTo.refl (d : Nat) (s : State) : AddsFramesOnlyTo d s s :=
  ⟨[], (List.append_nil _).symm, List.forall_mem_nil _⟩

theorem StaysInChannel.refl (c : ChannelNibble) (s : State) : StaysInChannel c s s :=
  ⟨.refl _ _, fun _ => rfl, fun _ _ => rfl⟩

theorem dacFrame_addsFramesOnlyTo (s : State) (d : Fin 4) (w : DacWord) : AddsFramesOnlyTo d.val s (s.dacFrame d w) :=
  ⟨_, s.dacFrame_frames d w, by simp⟩

theorem noteOnPrimary_staysInChannel (p v : Data7) (s : State) : StaysInChannel 0 s (noteOnPrimary p v s) where
  frames := ⟨_, noteOnPrimary_frames p v s, by simp⟩
  ch0 h := absurd rfl h
  ch _ _ := by rw [noteOnPrimary_ch]

theorem noteOffPrimary_staysInChannel (s : State) : StaysInChannel 0 s (noteOffPrimary s) where
  frames := ⟨_, noteOffPrimary_frames s, by split <;> simp⟩
  ch0 h := absurd rfl h
  ch _ _ := by rw [noteOffPrimary_ch]

/-- Writing one secondary record leaves the records of the other channels alone. -/
theorem ch_set_getElem_of_ne (s : State) {c : ChannelNibble} {i k : Fin 3} (r : SecondaryChannel)
    (hc : c.toNat = i.val + 1) (hk : k.val + 1 ≠ c.toNat) : (s.ch.set i.val r)[k] = s.ch[k] :=
  Vector.getElem_set_ne _ _ (by omega)

theorem noteOnSecondary_staysInChannel (p v : Data7) (s : State) {c : ChannelNibble} {i : Fin 3}
    (hc : c.toNat = i.val + 1) : StaysInChannel c s (noteOnSecondary i p v s) where
  frames := ⟨_, noteOnSecondary_frames p v s i, by simp [hc]⟩
  ch0 _ := rfl
  ch _ hk := ch_set_getElem_of_ne s ⟨true⟩ hc hk

theorem noteOffSecondary_staysInChannel (s : State) {c : ChannelNibble} {i : Fin 3} (hc : c.toNat = i.val + 1) :
    StaysInChannel c s (noteOffSecondary i s) where
  frames := ⟨_, noteOffSecondary_frames s i, by simp [hc]⟩
  ch0 _ := rfl
  ch _ hk := ch_set_getElem_of_ne s ⟨false⟩ hc hk

/-- A note command stays in its channel; a CONTROL_CHANGE sends to device 0 only and writes no record (R152). -/
theorem exec_note_reach {i : Instr} {s t : State} (hi : isNote i = true) (h : exec i s = .next t) :
    (∃ c p v, (i = .noteOn c p v ∨ i = .noteOff c p v) ∧ StaysInChannel c s t) ∨
    (∃ c n v, i = .controlChange c n v ∧ AddsFramesOnlyTo 0 s t ∧ t.ch0 = s.ch0 ∧ t.ch = s.ch) := by
  rcases exec_note_cases hi h with ⟨p, v, hi, rfl⟩ | ⟨k, c, p, v, hi, hc, rfl⟩ | ⟨p, v, hi, rfl⟩ |
    ⟨k, c, p, v, hi, hc, rfl⟩ | ⟨c, p, v, hi, -, rfl⟩ | ⟨c, n, v, hi, -, rfl⟩ | ⟨c, n, v, hi, -, rfl⟩
  · exact .inl ⟨0, p, v, .inl hi, noteOnPrimary_staysInChannel p v s⟩
  · exact .inl ⟨c, p, v, .inl hi, noteOnSecondary_staysInChannel p v s hc⟩
  · exact .inl ⟨0, p, v, .inr hi, noteOffPrimary_staysInChannel s⟩
  · exact .inl ⟨c, p, v, .inr hi, noteOffSecondary_staysInChannel s hc⟩
  · exact .inl ⟨c, p, v, hi, .refl c t⟩
  · exact .inr ⟨c, n, v, hi, dacFrame_addsFramesOnlyTo s 0 _, rfl, rfl⟩
  · exact .inr ⟨c, n, v, hi, .refl 0 t, rfl, rfl⟩

/-- A note command has one channel nibble. -/
theorem noteChannel_inj {i : Instr} {c c' : ChannelNibble} {p v p' v' : Data7}
    (h : i = .noteOn c p v ∨ i = .noteOff c p v) (h' : i = .noteOn c' p' v' ∨ i = .noteOff c' p' v') : c = c' := by
  obtain rfl | rfl := h
  · exact (Instr.noteOn.inj (h'.resolve_right nofun)).1
  · exact (Instr.noteOff.inj (h'.resolve_left nofun)).1

/-- Settles O34: the clock section is neither written nor read by the cases of a note command, and those cases reach one
channel and its device, or device 0 and no channel. -/
theorem noteCommandsStayInTheirChannel : Obligations.NoteCommandsStayInTheirChannel := by
  unfold Obligations.NoteCommandsStayInTheirChannel
  intro i s t hi h
  refine ⟨exec_note_clockSide hi h, exec_hostSide h, exec_note_withClockSide hi h, ?_⟩
  obtain ⟨c, p, v, hic, ⟨added, hframes, hdevice⟩, hch0, hch⟩ |
    ⟨c, n, v, rfl, ⟨added, hframes, hdevice⟩, hch0, hch⟩ := exec_note_reach hi h
  · refine ⟨added, hframes, fun c' p' v' hic' => ?_, fun c' n v' hic' => ?_⟩
    · obtain rfl : c = c' := noteChannel_inj hic hic'
      exact ⟨hdevice, hch0, hch⟩
    · obtain rfl | rfl := hic <;> cases hic'
  · refine ⟨added, hframes, fun c' p' v' hic' => ?_, fun _ _ _ _ => ⟨fun f hf => Fin.ext (hdevice f hf), hch0, hch⟩⟩
    obtain hic' | hic' := hic' <;> cases hic'

end Sys2Proof.Machine
end


section
/-! The threshold of a clock channel (20_memory.md R73, 42_clock_transport.md R170). -/

namespace Sys2Proof.Machine

/-- The division table of R73, in order. -/
theorem divTable_toList : divTable.toList = [6, 12, 24, 48, 96, 192, 384, 768] := rfl

/-- Every division index is an index of the table (R73). -/
theorem divTable_getElem? (i : BitVec 3) : divTable[i.toNat]? = some (ticksPerPulse i) :=
  Vector.getElem?_eq_getElem i.isLt

/-- Settles O18: the listed values are the division table, and the threshold is its entry at the channel's index. -/
theorem thresholdIsTheTableEntry : Obligations.ThresholdIsTheTableEntry := by
  unfold Obligations.ThresholdIsTheTableEntry
  intro c
  rw [← divTable_toList, Vector.getElem?_toList]
  exact divTable_getElem? c.divisionIndex

end Sys2Proof.Machine
end


section
/-! What `exec` answers for each clock command (42_clock_transport.md R175 to R181, R190, R195), as the state it leaves. -/

namespace Sys2Proof.Machine

theorem exec_clock_stopped {s : State} (h : s.transportRunning = false) : exec .clock s = .next s := by
  rw [exec, execClock, h, if_neg Bool.false_ne_true]

theorem exec_clock_running {s : State} (h : s.transportRunning = true) :
    exec .clock s = .next (s.forEachClock fun c j => c.tick s.params.retrigger s.now j) := by
  rw [exec, execClock, if_pos h]

theorem exec_start (s : State) : exec .start s = .next s.startTransport := rfl

theorem exec_cont (s : State) : exec .cont s = .next s.startTransport := rfl

theorem exec_stop (s : State) :
    exec .stop s = .next ((s.setTransport false).forEachClock fun c j => c.halt j) := rfl

theorem exec_poll (s : State) : exec .poll s = .next (s.forEachClock fun c j => c.expire s.now j) := rfl

theorem exec_setDiv {s : State} {j : Byte} {c : ClockChannel} (r : Byte) (h : s.clk[j.toNat]? = some c) :
    exec (.setDiv j r) s = .next (s.setClock j.toNat (c.configure r)) := by
  simp only [exec, execSetDiv, h]

theorem exec_getDiv {s : State} {j : Byte} {c : ClockChannel} (h : s.clk[j.toNat]? = some c) :
    exec (.getDiv j) s = .next (s.setRdata (c.divisionIndex.setWidth 8)) := by
  simp only [exec, execGetDiv, h]

end Sys2Proof.Machine
end


section
/-! STOP (42_clock_transport.md R179): its word and the state it leaves. -/

namespace Sys2Proof.Machine

theorem encode_stop : encode .stop = 0xFC0000#24 := rfl

/-- Settles O42: the clock records by the map each halt makes of its own, the note section by the silence of a halt on
the bus. -/
theorem stopRetractsEveryPulse : Obligations.StopRetractsEveryPulse := by
  unfold Obligations.StopRetractsEveryPulse
  exact ⟨encode_stop, fun s => ⟨_, exec_stop s, rfl, stop_clk s, rfl, stop_noteSide s, exec_hostSide (exec_stop s)⟩⟩

end Sys2Proof.Machine
end


section
/-! The clock section by itself (42_clock_transport.md R197): a clock command neither writes nor reads the note section
and puts nothing on the bus. -/

namespace Sys2Proof.Machine

/-- What a clock command does: a sweep over the clock channels, one new division, one read, or nothing. -/
theorem exec_clockCommand_cases {i : Instr} {s t : State} (hi : isNote i = false) (h : exec i s = .next t) :
    (i = .clock ∧ s.transportRunning = false ∧ t = s) ∨
    (i = .clock ∧ s.transportRunning = true ∧ t = s.forEachClock fun c j => c.tick s.params.retrigger s.now j) ∨
    ((i = .start ∨ i = .cont) ∧ t = s.startTransport) ∨
    (i = .stop ∧ t = (s.setTransport false).forEachClock fun c j => c.halt j) ∨
    (i = .poll ∧ t = s.forEachClock fun c j => c.expire s.now j) ∨
    (∃ j r c, i = .setDiv j r ∧ s.clk[j.toNat]? = some c ∧ t = s.setClock j.toNat (c.configure r)) ∨
    (∃ j c, i = .getDiv j ∧ s.clk[j.toNat]? = some c ∧ t = s.setRdata (c.divisionIndex.setWidth 8)) := by
  rcases exec_cases h with ⟨_, _, rfl, -⟩ | ⟨_, _, _, _, rfl, -⟩ | ⟨_, _, rfl, -⟩ | ⟨_, _, _, _, rfl, -⟩ |
    ⟨_, _, _, rfl | rfl, -⟩ | ⟨_, _, _, rfl, -⟩ | ⟨_, _, _, rfl, -⟩ | h
  case inr.inr.inr.inr.inr.inr.inr => exact h
  all_goals cases hi

/-! ## The note section is not written -/

theorem setClock_noteSide (s : State) (j : Nat) (c : ClockChannel) : SameNoteSide s (s.setClock j c) :=
  ⟨rfl, rfl, rfl, rfl, rfl⟩

theorem setRdata_noteSide (s : State) (v : Byte) : SameNoteSide s (s.setRdata v) := ⟨rfl, rfl, rfl, rfl, rfl⟩

/-- A clock command writes nothing of the note section and emits no frame (R197). -/
theorem exec_clockCommand_noteSide {i : Instr} {s t : State} (hi : isNote i = false) (h : exec i s = .next t) :
    SameNoteSide s t := by
  rcases exec_clockCommand_cases hi h with ⟨-, -, rfl⟩ | ⟨-, -, rfl⟩ | ⟨-, rfl⟩ | ⟨-, rfl⟩ | ⟨-, rfl⟩ |
    ⟨j, r, c, -, -, rfl⟩ | ⟨j, c, -, -, rfl⟩
  · exact ⟨rfl, rfl, rfl, rfl, rfl⟩
  · exact forEachClock_noteSide _ _ fun c j => c.busTrace_tick _ _ j
  · exact startTransport_noteSide s
  · exact stop_noteSide s
  · exact forEachClock_noteSide _ _ fun c j => c.busTrace_expire _ j
  · exact setClock_noteSide ..
  · exact setRdata_noteSide ..

/-! ## The note section is not read -/

section
variable (s : State) (ch0 : PrimaryChannel) (ch : Vector SecondaryChannel 3) (frames : List Frame)
  (cv : Vector DacOutputs 4)

theorem forEachClock_withNoteSide (f : ClockChannel → Nat → ClockChannel × List Event) :
    (s.withNoteSide ch0 ch frames cv).forEachClock f = (s.forEachClock f).withNoteSide ch0 ch frames cv := rfl

theorem setTransport_withNoteSide (b : Bool) :
    (s.withNoteSide ch0 ch frames cv).setTransport b = (s.setTransport b).withNoteSide ch0 ch frames cv := rfl

theorem startTransport_withNoteSide :
    (s.withNoteSide ch0 ch frames cv).startTransport = s.startTransport.withNoteSide ch0 ch frames cv := rfl

end

/-- With any other note section, a clock command does the same to the rest (R197). -/
theorem exec_clockCommand_withNoteSide {i : Instr} {s t : State} (hi : isNote i = false) (h : exec i s = .next t)
    (ch0 : PrimaryChannel) (ch : Vector SecondaryChannel 3) (frames : List Frame) (cv : Vector DacOutputs 4) :
    exec i (s.withNoteSide ch0 ch frames cv) = .next (t.withNoteSide ch0 ch frames cv) := by
  rcases exec_clockCommand_cases hi h with ⟨rfl, hr, rfl⟩ | ⟨rfl, hr, rfl⟩ | ⟨rfl | rfl, rfl⟩ | ⟨rfl, rfl⟩ |
    ⟨rfl, rfl⟩ | ⟨j, r, c, rfl, hc, rfl⟩ | ⟨j, c, rfl, hc, rfl⟩
  · exact exec_clock_stopped hr
  · exact exec_clock_running hr
  · rw [exec_start, startTransport_withNoteSide]
  · rw [exec_cont, startTransport_withNoteSide]
  · rw [exec_stop, setTransport_withNoteSide, forEachClock_withNoteSide]
  · exact exec_poll _
  · exact exec_setDiv r hc
  · exact exec_getDiv hc

/-- Settles O35: the note section is neither written nor read by the cases of a clock command, and a note command leaves
the clock section alone. -/
theorem clockCommandsIgnoreTheNoteSection : Obligations.ClockCommandsIgnoreTheNoteSection := by
  unfold Obligations.ClockCommandsIgnoreTheNoteSection
  exact fun _ _ _ h => ⟨fun hi => ⟨exec_clockCommand_noteSide hi h, exec_hostSide h,
    exec_clockCommand_withNoteSide hi h⟩, fun hi => exec_note_clockSide hi h⟩

end Sys2Proof.Machine
end


section
/-! The decoder arm by arm (30_encoding.md R102): which arm a word takes, what each arm answers, and so the one equation
`decode n w = .ok i ↔ encode i = w ∧ i.wf n = true`. -/

namespace Sys2Proof

/-- The opcode is of a MIDI channel kind (R95). -/
def IsChanOp (op : Byte) : Prop := kindField op = 0x8#4 ∨ kindField op = 0x9#4 ∨ kindField op = 0xB#4

/-- The opcode is of a command without operands (R95). -/
def IsSysOp (op : Byte) : Prop := op = 0xF8#8 ∨ op = 0xFA#8 ∨ op = 0xFB#8 ∨ op = 0xFC#8 ∨ op = 0x01#8

/-- `build` makes the commands of kind `kind`: their words are those of the CHAN format, and all are well formed
(R91, R96). -/
structure BuildsChan (kind : BitVec 4) (build : ChannelNibble → Data7 → Data7 → Instr) : Prop where
  encode_eq : ∀ c x y, encode (build c x y) = packWord (chanOp kind c) (dataByte x) (dataByte y)
  wf : ∀ n c x y, (build c x y).wf n = true

theorem buildsChan_noteOff : BuildsChan 0x8#4 .noteOff := ⟨fun _ _ _ => rfl, fun _ _ _ _ => rfl⟩
theorem buildsChan_noteOn : BuildsChan 0x9#4 .noteOn := ⟨fun _ _ _ => rfl, fun _ _ _ _ => rfl⟩
theorem buildsChan_controlChange : BuildsChan 0xB#4 .controlChange := ⟨fun _ _ _ => rfl, fun _ _ _ _ => rfl⟩

/-! ## Which arm a word takes -/

theorem decode_noteOff (n : Nat) {w : CommandWord} (h : kindField (opField w) = 0x8#4) :
    decode n w = decodeChan .noteOff (opField w) (d1Field w) (d2Field w) := if_pos h

theorem decode_noteOn (n : Nat) {w : CommandWord} (h : kindField (opField w) = 0x9#4) :
    decode n w = decodeChan .noteOn (opField w) (d1Field w) (d2Field w) := by
  simp [decode, h]

theorem decode_controlChange (n : Nat) {w : CommandWord} (h : kindField (opField w) = 0xB#4) :
    decode n w = decodeChan .controlChange (opField w) (d1Field w) (d2Field w) := by
  simp [decode, h]

theorem decode_clock (n : Nat) {w : CommandWord} (h : opField w = 0xF8#8) :
    decode n w = decodeSys .clock (d1Field w) (d2Field w) := by
  rw [decode, h]; rfl

theorem decode_start (n : Nat) {w : CommandWord} (h : opField w = 0xFA#8) :
    decode n w = decodeSys .start (d1Field w) (d2Field w) := by
  rw [decode, h]; rfl

theorem decode_cont (n : Nat) {w : CommandWord} (h : opField w = 0xFB#8) :
    decode n w = decodeSys .cont (d1Field w) (d2Field w) := by
  rw [decode, h]; rfl

theorem decode_stop (n : Nat) {w : CommandWord} (h : opField w = 0xFC#8) :
    decode n w = decodeSys .stop (d1Field w) (d2Field w) := by
  rw [decode, h]; rfl

theorem decode_poll (n : Nat) {w : CommandWord} (h : opField w = 0x01#8) :
    decode n w = decodeSys .poll (d1Field w) (d2Field w) := by
  rw [decode, h]; rfl

theorem decode_setDiv (n : Nat) {w : CommandWord} (h : opField w = 0x02#8) :
    decode n w = decodeSetDiv n (d1Field w) (d2Field w) := by
  rw [decode, h]; rfl

theorem decode_getDiv (n : Nat) {w : CommandWord} (h : opField w = 0x03#8) :
    decode n w = decodeGetDiv n (d1Field w) (d2Field w) := by
  rw [decode, h]; rfl

theorem decode_unassigned (n : Nat) {w : CommandWord} (hchan : ¬ IsChanOp (opField w))
    (hsys : ¬ IsSysOp (opField w)) (hset : opField w ≠ 0x02#8) (hget : opField w ≠ 0x03#8) :
    decode n w = .error .unassignedOpcode := by
  simp only [IsChanOp, IsSysOp, not_or] at hchan hsys
  simp [decode, hchan, hsys, hset, hget]

/-- Every word takes the arm of its opcode: CHAN, SYS, SET_DIV, GET_DIV, or the refusal of an opcode in no
row (R102). -/
theorem decode_arms (n : Nat) (w : CommandWord) :
    (IsChanOp (opField w) ∧ ∃ build, BuildsChan (kindField (opField w)) build ∧
      decode n w = decodeChan build (opField w) (d1Field w) (d2Field w)) ∨
    (IsSysOp (opField w) ∧ ∃ i, encode i = packWord (opField w) 0#8 0#8 ∧ i.wf n = true ∧
      decode n w = decodeSys i (d1Field w) (d2Field w)) ∨
    (opField w = 0x02#8 ∧ decode n w = decodeSetDiv n (d1Field w) (d2Field w)) ∨
    (opField w = 0x03#8 ∧ decode n w = decodeGetDiv n (d1Field w) (d2Field w)) ∨
    (¬ IsChanOp (opField w) ∧ ¬ IsSysOp (opField w) ∧ opField w ≠ 0x02#8 ∧ opField w ≠ 0x03#8 ∧
      decode n w = .error .unassignedOpcode) := by
  by_cases hchan : IsChanOp (opField w)
  · refine .inl ⟨hchan, ?_⟩
    obtain h | h | h := hchan <;> rw [h]
    · exact ⟨_, buildsChan_noteOff, decode_noteOff n h⟩
    · exact ⟨_, buildsChan_noteOn, decode_noteOn n h⟩
    · exact ⟨_, buildsChan_controlChange, decode_controlChange n h⟩
  by_cases hsys : IsSysOp (opField w)
  · refine .inr (.inl ⟨hsys, ?_⟩)
    obtain h | h | h | h | h := hsys <;> rw [h]
    · exact ⟨.clock, rfl, rfl, decode_clock n h⟩
    · exact ⟨.start, rfl, rfl, decode_start n h⟩
    · exact ⟨.cont, rfl, rfl, decode_cont n h⟩
    · exact ⟨.stop, rfl, rfl, decode_stop n h⟩
    · exact ⟨.poll, rfl, rfl, decode_poll n h⟩
  by_cases hset : opField w = 0x02#8
  · exact .inr (.inr (.inl ⟨hset, decode_setDiv n hset⟩))
  by_cases hget : opField w = 0x03#8
  · exact .inr (.inr (.inr (.inl ⟨hget, decode_getDiv n hget⟩)))
  · exact .inr (.inr (.inr (.inr ⟨hchan, hsys, hset, hget, decode_unassigned n hchan hsys hset hget⟩)))

/-! ## What each arm answers -/

section
variable {build : ChannelNibble → Data7 → Data7 → Instr} {op d1 d2 : Byte} {i : Instr} {n : Nat} {r : DecodeReason}

theorem decodeChan_eq_ok_iff :
    decodeChan build op d1 d2 = .ok i ↔
      (d1.msb = false ∧ d2.msb = false) ∧ build (nibbleField op) (dataField d1) (dataField d2) = i := by
  cases h1 : d1.msb <;> cases h2 : d2.msb <;> simp [decodeChan, h1, h2]

theorem decodeChan_eq_error_iff :
    decodeChan build op d1 d2 = .error r ↔ .dataBit7Set = r ∧ (d1.msb = true ∨ d2.msb = true) := by
  cases h1 : d1.msb <;> cases h2 : d2.msb <;> simp [decodeChan, h1, h2]

theorem decodeSys_eq_ok_iff {i' : Instr} : decodeSys i d1 d2 = .ok i' ↔ (d1 = 0#8 ∧ d2 = 0#8) ∧ i = i' := by
  by_cases h1 : d1 = 0#8 <;> by_cases h2 : d2 = 0#8 <;> simp [decodeSys, h1, h2]

theorem decodeSys_eq_error_iff :
    decodeSys i d1 d2 = .error r ↔ .nonzeroReservedField = r ∧ (d1 ≠ 0 ∨ d2 ≠ 0) := by
  by_cases h1 : d1 = 0#8 <;> by_cases h2 : d2 = 0#8 <;> simp [decodeSys, h1, h2]

theorem decodeSetDiv_eq_ok_iff : decodeSetDiv n d1 d2 = .ok i ↔ d1.toNat < n ∧ .setDiv d1 d2 = i := by
  by_cases h : n ≤ d1.toNat <;> simp [decodeSetDiv, h, Nat.lt_of_not_le]

theorem decodeSetDiv_eq_error_iff :
    decodeSetDiv n d1 d2 = .error r ↔ .clockChannelOutOfRange = r ∧ n ≤ d1.toNat := by
  by_cases h : n ≤ d1.toNat <;> simp [decodeSetDiv, h]

theorem decodeGetDiv_eq_ok_iff : decodeGetDiv n d1 d2 = .ok i ↔ (d1.toNat < n ∧ d2 = 0#8) ∧ .getDiv d1 = i := by
  by_cases h : n ≤ d1.toNat <;> by_cases h2 : d2 = 0#8 <;> simp [decodeGetDiv, h, h2, Nat.lt_of_not_le]

theorem decodeGetDiv_eq_error_iff :
    decodeGetDiv n d1 d2 = .error r ↔
      (.clockChannelOutOfRange = r ∧ n ≤ d1.toNat) ∨ (.nonzeroReservedField = r ∧ d1.toNat < n ∧ d2 ≠ 0) := by
  by_cases h : n ≤ d1.toNat <;> by_cases h2 : d2 = 0#8 <;> simp [decodeGetDiv, h, h2, Nat.lt_of_not_le]
end

/-! ## Decoding and encoding are inverse -/

theorem decode_chan_word {kind : BitVec 4} {build : ChannelNibble → Data7 → Data7 → Instr} {n : Nat}
    (h : ∀ w, kindField (opField w) = kind →
      decode n w = decodeChan build (opField w) (d1Field w) (d2Field w)) (c : ChannelNibble) (x y : Data7) :
    decode n (packWord (chanOp kind c) (dataByte x) (dataByte y)) = .ok (build c x y) := by
  rw [h _ (by simp), decodeChan_eq_ok_iff]
  simp

theorem decode_encode {n : Nat} (i : Instr) (h : i.wf n = true) : decode n (encode i) = .ok i := by
  cases i with
  | noteOff c p v => exact decode_chan_word (fun _ => decode_noteOff n) c p v
  | noteOn c p v => exact decode_chan_word (fun _ => decode_noteOn n) c p v
  | controlChange c k v => exact decode_chan_word (fun _ => decode_controlChange n) c k v
  | clock => rfl
  | start => rfl
  | cont => rfl
  | stop => rfl
  | poll => rfl
  | setDiv j r =>
    rw [encode, decode_setDiv n (opField_packWord ..), decodeSetDiv_eq_ok_iff]
    simpa [Instr.wf] using h
  | getDiv j =>
    rw [encode, decode_getDiv n (opField_packWord ..), decodeGetDiv_eq_ok_iff]
    simpa [Instr.wf] using h

/-- Settles O1: constructor by constructor, the arm its opcode selects reads back the packed fields. -/
theorem decodeOfEncodeIsTheInstruction : Obligations.DecodeOfEncodeIsTheInstruction := by
  unfold Obligations.DecodeOfEncodeIsTheInstruction
  exact fun _ => decode_encode

/-- A word of the CHAN format is packed from its kind, its channel nibble and its two data values (R91). -/
theorem packWord_chanFields {w : CommandWord} (h1 : (d1Field w).msb = false) (h2 : (d2Field w).msb = false) :
    packWord (chanOp (kindField (opField w)) (nibbleField (opField w))) (dataByte (dataField (d1Field w)))
      (dataByte (dataField (d2Field w))) = w := by
  rw [chanOp_fields, dataByte_dataField h1, dataByte_dataField h2, packWord_fields]

theorem encode_of_decode {n : Nat} {w : CommandWord} {i : Instr} (h : decode n w = .ok i) :
    encode i = w ∧ i.wf n = true := by
  obtain ⟨-, build, hb, hd⟩ | ⟨-, i', he, hwf, hd⟩ | ⟨hop, hd⟩ | ⟨hop, hd⟩ | ⟨-, -, -, -, hd⟩ := decode_arms n w <;>
    rw [hd] at h
  · obtain ⟨⟨h1, h2⟩, rfl⟩ := decodeChan_eq_ok_iff.mp h
    exact ⟨(hb.encode_eq ..).trans (packWord_chanFields h1 h2), hb.wf ..⟩
  · obtain ⟨⟨h1, h2⟩, rfl⟩ := decodeSys_eq_ok_iff.mp h
    refine ⟨?_, hwf⟩
    rw [he]
    conv_rhs => rw [← packWord_fields w, h1, h2]
  · obtain ⟨hlt, rfl⟩ := decodeSetDiv_eq_ok_iff.mp h
    exact ⟨by rw [encode, ← hop, packWord_fields], decide_eq_true hlt⟩
  · obtain ⟨⟨hlt, h2⟩, rfl⟩ := decodeGetDiv_eq_ok_iff.mp h
    exact ⟨by rw [encode, ← hop, ← h2, packWord_fields], decide_eq_true hlt⟩
  · cases h

/-- Settles O2: on the arm a word takes, the fields the arm checked and read are all of the word. -/
theorem decodedWordIsItsEncoding : Obligations.DecodedWordIsItsEncoding := by
  unfold Obligations.DecodedWordIsItsEncoding
  exact fun _ _ _ => encode_of_decode

/-- Decoding accepts exactly the words of the well-formed instructions (R102). -/
theorem decode_eq_ok_iff {n : Nat} {w : CommandWord} {i : Instr} :
    decode n w = .ok i ↔ encode i = w ∧ i.wf n = true :=
  ⟨encode_of_decode, fun ⟨he, hwf⟩ => he ▸ decode_encode i hwf⟩

/-! ## The opcode map -/

/-- Two patterns that one word matches agree where both masks look, which no two rows of the map do. -/
theorem opcodeMap_pairwise : ∀ r ∈ opcodeMap, ∀ r' ∈ opcodeMap, r.value &&& r'.mask = r'.value &&& r.mask → r = r' := by
  decide

/-- Settles O3: a word that matches both patterns makes them agree on the common part of their masks. -/
theorem noWordMatchesTwoRows : Obligations.NoWordMatchesTwoRows := by
  unfold Obligations.NoWordMatchesTwoRows
  intro w r r' hr hr' hw hw'
  refine opcodeMap_pairwise r hr r' hr' ?_
  calc r.value &&& r'.mask = w &&& r.mask &&& r'.mask := by rw [hw]
    _ = w &&& r'.mask &&& r.mask := by rw [BitVec.and_assoc, BitVec.and_comm r.mask, ← BitVec.and_assoc]
    _ = r'.value &&& r.mask := by rw [hw']

theorem rowOf_mem_opcodeMap (i : Instr) : rowOf i ∈ opcodeMap := by
  cases i <;> simp [opcodeMap, rowOf]

/-- The word of an instruction matches the instruction's row (R95). -/
theorem rowOf_matchesWord_encode (i : Instr) : (rowOf i).matchesWord (encode i) := by
  open Laws.EncodeMatchesRow in
  cases i with
  | noteOff c p v => exact noteOff c p v
  | noteOn c p v => exact noteOn c p v
  | controlChange c k v => exact controlChange c k v
  | clock => exact clock
  | start => exact start
  | cont => exact cont
  | stop => exact stop
  | poll => exact poll
  | setDiv j r => exact setDiv j r
  | getDiv j => exact getDiv j

/-- The value check of a row is the well-formedness of its instructions (R96). -/
theorem wf_iff_passes (n : Nat) (i : Instr) : i.wf n = true ↔ (rowOf i).passes n (encode i) := by
  cases i <;> simp [Instr.wf, rowOf, OpcodeRow.passes, encode]

theorem exists_chanInstr {kind : BitVec 4} {build : ChannelNibble → Data7 → Data7 → Instr} {w : CommandWord}
    (hb : BuildsChan kind build) (h : w &&& 0xF08080#24 = packWord (chanOp kind 0#4) 0#8 0#8) :
    ∃ c x y, encode (build c x y) = w := by
  obtain ⟨hk, h1, h2⟩ := (and_chanMask_eq_iff kind w).mp h
  exact ⟨_, _, _, (hb.encode_eq ..).trans (hk ▸ packWord_chanFields h1 h2)⟩

theorem value_eq_of_fullMask {r : OpcodeRow} {w : CommandWord} (hm : r.mask = BitVec.allOnes 24)
    (hw : r.matchesWord w) : r.value = w := by
  rw [OpcodeRow.matchesWord, hm, BitVec.and_allOnes] at hw
  exact hw.symm

/-- A word that matches a row of the map is the word of an instruction of that row (R95). -/
theorem exists_instr_of_matchesWord {r : OpcodeRow} {w : CommandWord} (hr : r ∈ opcodeMap) (hw : r.matchesWord w) :
    ∃ i, encode i = w ∧ rowOf i = r := by
  simp only [opcodeMap, List.mem_cons, List.not_mem_nil, or_false] at hr
  obtain rfl | rfl | rfl | rfl | rfl | rfl | rfl | rfl | rfl | rfl := hr
  · obtain ⟨c, x, y, he⟩ := exists_chanInstr buildsChan_noteOff hw
    exact ⟨_, he, rfl⟩
  · obtain ⟨c, x, y, he⟩ := exists_chanInstr buildsChan_noteOn hw
    exact ⟨_, he, rfl⟩
  · obtain ⟨c, x, y, he⟩ := exists_chanInstr buildsChan_controlChange hw
    exact ⟨_, he, rfl⟩
  · exact ⟨.clock, value_eq_of_fullMask rfl hw, rfl⟩
  · exact ⟨.start, value_eq_of_fullMask rfl hw, rfl⟩
  · exact ⟨.cont, value_eq_of_fullMask rfl hw, rfl⟩
  · exact ⟨.stop, value_eq_of_fullMask rfl hw, rfl⟩
  · exact ⟨.poll, value_eq_of_fullMask rfl hw, rfl⟩
  · have hop := (and_setDivMask_eq_iff w).mp hw
    exact ⟨.setDiv (d1Field w) (d2Field w), by rw [encode, ← hop, packWord_fields], rfl⟩
  · obtain ⟨hop, h2⟩ := (and_getDivMask_eq_iff w).mp hw
    exact ⟨.getDiv (d1Field w), by rw [encode, ← hop, ← h2, packWord_fields], rfl⟩

/-- Decoding accepts exactly the words that match a row and pass its value check (R99). -/
theorem exists_decode_eq_ok_iff (n : Nat) (w : CommandWord) :
    (∃ i, decode n w = .ok i) ↔ ∃ r ∈ opcodeMap, r.matchesWord w ∧ r.passes n w := by
  simp only [decode_eq_ok_iff]
  constructor
  · rintro ⟨i, rfl, hwf⟩
    exact ⟨rowOf i, rowOf_mem_opcodeMap i, rowOf_matchesWord_encode i, (wf_iff_passes n i).mp hwf⟩
  · rintro ⟨r, hr, hw, hp⟩
    obtain ⟨i, rfl, rfl⟩ := exists_instr_of_matchesWord hr hw
    exact ⟨i, rfl, (wf_iff_passes n i).mpr hp⟩

/-- Settles O4: a word is refused exactly when it is not accepted, and the accepted words are those of the map. -/
theorem refusedExactlyOutsideTheOpcodeMap : Obligations.RefusedExactlyOutsideTheOpcodeMap := by
  unfold Obligations.RefusedExactlyOutsideTheOpcodeMap
  intro n w
  rw [← exists_decode_eq_ok_iff]
  cases decode n w <;> simp

/-! ## The reason of a refusal -/

/-- The four classes of opcodes exclude each other (R95). -/
theorem not_isSysOp_of_isChanOp {op : Byte} (h : IsChanOp op) : ¬ IsSysOp op ∧ op ≠ 0x02#8 ∧ op ≠ 0x03#8 := by
  revert op
  unfold IsChanOp IsSysOp
  decide

theorem ne_div_of_isSysOp {op : Byte} (h : IsSysOp op) : ¬ IsChanOp op ∧ op ≠ 0x02#8 ∧ op ≠ 0x03#8 := by
  refine ⟨fun hc => (not_isSysOp_of_isChanOp hc).1 h, ?_, ?_⟩ <;> rintro rfl <;> revert h <;> simp [IsSysOp]

/-- Settles O5: on each arm, the reasons that arm gives are its own, and the opcode is of no other arm. -/
theorem refusalNamesTheFirstFailedCheck : Obligations.RefusalNamesTheFirstFailedCheck := by
  unfold Obligations.RefusalNamesTheFirstFailedCheck
  intro n w
  change (_ ↔ IsChanOp (opField w) ∧ _) ∧ (_ ↔ (IsSysOp (opField w) ∧ _) ∨ _) ∧ _ ∧
    (_ ↔ ¬ IsChanOp (opField w) ∧ ¬ IsSysOp (opField w) ∧ _)
  obtain ⟨hop, build, -, hd⟩ | ⟨hop, i, -, -, hd⟩ | ⟨hop, hd⟩ | ⟨hop, hd⟩ | ⟨hchan, hsys, hset, hget, hd⟩ :=
    decode_arms n w <;> simp only [hd]
  · obtain ⟨hsys, hset, hget⟩ := not_isSysOp_of_isChanOp hop
    simp [decodeChan_eq_error_iff, hop, hsys, hset, hget]
  · obtain ⟨hchan, hset, hget⟩ := ne_div_of_isSysOp hop
    simp [decodeSys_eq_error_iff, hop, hchan, hset, hget]
  · have hchan : ¬ IsChanOp 0x02#8 := fun h => (not_isSysOp_of_isChanOp h).2.1 rfl
    have hsys : ¬ IsSysOp 0x02#8 := fun h => (ne_div_of_isSysOp h).2.1 rfl
    simp [decodeSetDiv_eq_error_iff, hop, hchan, hsys]
  · have hchan : ¬ IsChanOp 0x03#8 := fun h => (not_isSysOp_of_isChanOp h).2.2 rfl
    have hsys : ¬ IsSysOp 0x03#8 := fun h => (ne_div_of_isSysOp h).2.2 rfl
    simp [decodeGetDiv_eq_error_iff, hop, hchan, hsys]
  · simp [hchan, hsys, hset, hget]

/-- Settles O6: each of the ten words by evaluating the decoder. -/
theorem sampleWordsDecode : Obligations.SampleWordsDecode := by
  unfold Obligations.SampleWordsDecode
  decide

end Sys2Proof
end


section
/-! One step (30_encoding.md R90, R102; 60_exceptions.md R211, R212): which commands step, and what every step does to
the command input and the parameters. -/

namespace Sys2Proof.Machine

/-- Settles O7: the step on a command whose word decodes, with taking and retiring it written out. -/
theorem stepRunsTheDecodedInstruction : Obligations.StepRunsTheDecodedInstruction := by
  unfold Obligations.StepRunsTheDecodedInstruction
  intro s c rest i hi hd
  rw [step_command hi hd]
  rfl

theorem step_reset {s : State} {rest : List Input} (h : s.input = .reset :: rest) :
    step s = .next (s.hostReset rest) := by
  simp only [step, State.fetch, h]

theorem step_endOfProgram {s : State} (h : s.input = []) : step s = .refused .endOfProgram := by
  simp only [step, State.fetch, h]

/-- Settles O8: the refusal is the one named after the reason; an empty input is the model's own stop. -/
theorem stepRefusesByName : Obligations.StepRefusesByName := by
  unfold Obligations.StepRefusesByName
  refine ⟨fun s c rest reason hi hd => ?_, fun s => step_endOfProgram⟩
  rw [step_refused hi hd]
  rfl

/-- Settles O14: a reset input answers the host's reset. -/
theorem hostResetRestoresTheResetState : Obligations.HostResetRestoresTheResetState := by
  unfold Obligations.HostResetRestoresTheResetState
  exact fun _ _ => step_reset

/-- A command completes in every state that has the clock channel it names (R228). -/
theorem exists_exec_eq_next {i : Instr} {s : State} (h : i.wf s.clk.length = true) : ∃ t, exec i s = .next t := by
  cases i with
  | noteOff c p v => exact ⟨_, rfl⟩
  | noteOn c p v => exact ⟨_, rfl⟩
  | controlChange c n v => exact ⟨_, rfl⟩
  | clock => exact ⟨_, rfl⟩
  | start => exact ⟨_, rfl⟩
  | cont => exact ⟨_, rfl⟩
  | stop => exact ⟨_, rfl⟩
  | poll => exact ⟨_, rfl⟩
  | setDiv j r => exact ⟨_, exec_setDiv r (List.getElem?_eq_getElem (of_decide_eq_true h))⟩
  | getDiv j => exact ⟨_, exec_getDiv (List.getElem?_eq_getElem (of_decide_eq_true h))⟩

/-- Settles O9: a fault does not exist; a word that decodes is that of a well-formed instruction, which completes. -/
theorem legalCommandsAlwaysStep : Obligations.LegalCommandsAlwaysStep := by
  unfold Obligations.LegalCommandsAlwaysStep
  refine ⟨nofun, fun s c rest hlen hi => ⟨?_, ?_⟩⟩
  · rintro ⟨t, ht⟩
    obtain ⟨_, hr, -⟩ | ⟨_, _, i, _, hc, hd, -, -⟩ := step_cases ht
    · rw [hi] at hr
      cases hr
    · rw [hi] at hc
      cases hc
      exact ⟨i, hd⟩
  · rintro ⟨i, hd⟩
    have hwf : i.wf (s.accept c rest).clk.length = true := by
      rw [State.accept_clk, hlen]
      exact (encode_of_decode hd).2
    obtain ⟨u, hu⟩ := exists_exec_eq_next hwf
    exact ⟨u.retire, by rw [step_command hi hd, hu]⟩

/-- A step on a command is the retired `exec` of the instruction its word decodes to. -/
theorem step_command_cases {s t : State} {c : Command} {rest : List Input} (hi : s.input = .command c :: rest)
    (h : step s = .next t) :
    ∃ i u, decode s.params.nClkTotal c.word = .ok i ∧ exec i (s.accept c rest) = .next u ∧ t = u.retire := by
  obtain ⟨_, hr, -⟩ | ⟨_, _, i, u, hc, hd, hu, ht⟩ := step_cases h
  · rw [hi] at hr
    cases hr
  · rw [hi] at hc
    cases hc
    exact ⟨i, u, hd, hu, ht⟩

/-- Settles O10: `exec` leaves the command input alone, so what changes is what taking and retiring the command do. -/
theorem commandAdvancesThePosition : Obligations.CommandAdvancesThePosition := by
  unfold Obligations.CommandAdvancesThePosition
  intro s t c rest hi h
  obtain ⟨i, u, -, hu, rfl⟩ := step_command_cases hi h
  obtain ⟨hnow, hpos, hinput, -, hlines⟩ := exec_hostSide hu
  refine ⟨congrArg (· + 1) hpos, hinput, hnow, u.lines, congrArg (· ++ [u.lines]) hlines, u.lines_gate_zero,
    u.lines_gate_succ, u.lines_slide, u.lines_accent, u.lines_pulse⟩

/-- Settles O11: a reset keeps the parameters, and no command touches them. -/
theorem parametersNeverChange : Obligations.ParametersNeverChange := by
  unfold Obligations.ParametersNeverChange
  intro s t h
  obtain ⟨_, -, rfl⟩ | ⟨c, rest, i, u, -, -, hu, rfl⟩ := step_cases h
  · rfl
  · exact (exec_hostSide hu).params

end Sys2Proof.Machine
end


section
/-! The reset state (10_state.md R47, R53; 70_reset_and_hazards.md R240). -/

namespace Sys2Proof.Machine

theorem resetWith_clk_getElem? (p : Params) (j : Nat) :
    (State.resetWith p).clk[j]? = if j < p.nClkTotal then some (ClockChannel.reset p j) else none := by
  by_cases h : j < p.nClkTotal <;> simp [State.resetWith, h]

theorem resetWith_clk_length (p : Params) : (State.resetWith p).clk.length = p.nClkTotal := by
  simp [State.resetWith]

/-- Every clock record of the reset state is a reset record. -/
theorem eq_reset_of_resetWith_clk {p : Params} {j : Nat} {c : ClockChannel} (h : (State.resetWith p).clk[j]? = some c) :
    c = ClockChannel.reset p j := by
  rw [resetWith_clk_getElem?] at h
  split at h
  · exact (Option.some.inj h).symm
  · cases h

/-- Every line is low at reset (R240). -/
theorem level_resetWith (p : Params) (l : Line) : (State.resetWith p).level l = false := by
  cases l with
  | gate k => revert k; simp [Fin.forall_fin_succ, State.level, State.gateLevel, State.resetWith]
  | slide => rfl
  | accent => rfl
  | pulse j =>
    by_cases h : j < p.nClkTotal <;> simp [State.level, State.pulseLevel, resetWith_clk_getElem?, h, ClockChannel.reset]

/-- Settles O12: the clock records and the lines by the lemmas above, every other field by its definition. -/
theorem resetValues : Obligations.ResetValues := by
  unfold Obligations.ResetValues
  refine ⟨rfl, fun p => ⟨rfl, fun k => ?_, resetWith_clk_length p, fun j c hc => ?_, rfl, rfl, rfl, rfl, rfl, rfl, rfl,
    rfl, rfl, fun d => ?_, level_resetWith p, fun _ => rfl⟩⟩
  · simp [State.resetWith]
  · obtain rfl := eq_reset_of_resetWith_clk hc
    exact ⟨rfl, rfl, rfl, rfl⟩
  · simp [State.resetWith, Obs.reset]

/-! ## Default divisions -/

theorem defaultDiv_led {p : Params} (h : p.hasLed = true) : defaultDiv p p.nClk = 2#3 := if_pos ⟨h, rfl⟩

theorem defaultDiv_output {p : Params} {j : Nat} (h : p.hasLed = true → j ≠ p.nClk) :
    defaultDiv p j = if j = 1 then 2#3 else 0#3 := if_neg fun ⟨hl, hj⟩ => h hl hj

theorem defaultDiv_one (p : Params) : defaultDiv p 1 = 2#3 := by
  unfold defaultDiv
  split <;> rfl

/-- The division of each clock channel at reset is its default (R47). -/
theorem resetWith_division {p : Params} {j : Nat} (h : j < p.nClkTotal) :
    ((State.resetWith p).clk.map (·.divisionIndex))[j]? = some (defaultDiv p j) := by
  rw [List.getElem?_map, resetWith_clk_getElem?, if_pos h]
  rfl

theorem nClk_le_nClkTotal (p : Params) : p.nClk ≤ p.nClkTotal := Nat.le_add_right ..

theorem nClk_lt_nClkTotal {p : Params} (h : p.hasLed = true) : p.nClk < p.nClkTotal := by
  simp [Params.nClkTotal, h]

/-- Settles O13: the division of a channel at reset is `defaultDiv`, whose three cases are the LED channel, channel 1
and every other. -/
theorem defaultDivisions : Obligations.DefaultDivisions := by
  unfold Obligations.DefaultDivisions
  have hrest {p : Params} {j : Nat} (hj : j ≠ 1) (h : p.hasLed = true → j ≠ p.nClk) : defaultDiv p j = 0#3 := by
    rw [defaultDiv_output h, if_neg hj]
  refine ⟨rfl, rfl, fun _ => defaultDiv_led, fun p j hj => hrest (by omega), fun p hn => ?_⟩
  have hle := nClk_le_nClkTotal p
  refine ⟨rfl, by simp [resetWith_clk_length], ?_, fun h2 => ?_, fun j hj hlt => ?_, fun hl => ?_⟩
  · rw [resetWith_division (by omega), hrest (by decide) (by omega)]
  · rw [resetWith_division h2, defaultDiv_one]
  · rw [resetWith_division (by omega), hrest (by omega) (by omega)]
  · rw [resetWith_division (nClk_lt_nClkTotal hl), defaultDiv_led hl]

end Sys2Proof.Machine
end


section
/-! The parameters of this core (00_scope.md R16, 20_memory.md R71): a running maximum is non-decreasing. -/

namespace Sys2Proof

theorem runningMax_mono (f : Nat → Code) : Monotone fun n => (Config.runningMax f n).toNat := by
  refine monotone_nat_of_le_succ fun n => ?_
  simp only [Config.runningMax]
  split
  · assumption
  · exact le_rfl

/-- Settles O15: the table is a running maximum; the other bounds are of the decided values. -/
theorem coreParametersAreLegal : Obligations.CoreParametersAreLegal := by
  unfold Obligations.CoreParametersAreLegal
  refine ⟨fun i j hij => ?_, by decide, by decide, by decide⟩
  simpa [Config.params] using runningMax_mono Config.freeVoltage hij

end Sys2Proof
end


section
/-! The invariants of the primary channel (10_state.md R35): a note command on it keeps them, and nothing else writes
it. -/

namespace Sys2Proof.Machine

theorem PrimaryOk.of_same {s t : State} (h : PrimaryOk s) (hch : t.ch0 = s.ch0) (hp : t.params = s.params) :
    PrimaryOk t := by
  refine ⟨?_, ?_, ?_, ?_⟩ <;> rw [hch]
  · exact h.gate_iff
  · exact h.slide_iff
  · exact h.accent_gate
  · exact hp ▸ h.count_le

theorem primaryOk_resetWith (p : Params) : PrimaryOk (State.resetWith p) := by
  refine ⟨?_, ?_, ?_, ?_⟩ <;> simp [State.resetWith]

/-- NOTE_ON keeps R35: the count is positive after it, and the slide is set exactly when it exceeds 1. -/
theorem primaryOk_noteOnPrimary {s : State} (h : PrimaryOk s) (hmax : 1 ≤ s.params.countMax.toNat) (p v : Data7) :
    PrimaryOk (noteOnPrimary p v s) := by
  have hcount : (noteOnPrimary p v s).ch0.activeNoteCount.toNat =
      min (s.ch0.activeNoteCount.toNat + 1) s.params.countMax.toNat := by
    rw [noteOnPrimary_count, satInc_toNat]
  refine ⟨?_, ?_, fun _ => noteOnPrimary_gate p v s, ?_⟩
  · simp only [noteOnPrimary_gate, true_iff]
    omega
  · have hslide := h.slide_iff
    have hle := h.count_le
    rw [noteOnPrimary_slide, hcount, satInc_toNat]
    split
    · exact iff_of_true rfl ‹_›
    · rw [hslide]
      omega
  · rw [hcount, (noteOnPrimary_hostSide p v s).params]
    exact min_le_right _ _

/-- NOTE_OFF keeps R35: slide falls with the count at 1, gate and accent with the count at 0. -/
theorem primaryOk_noteOffPrimary {s : State} (h : PrimaryOk s) : PrimaryOk (noteOffPrimary s) := by
  have hcount := satDec_toNat s.ch0.activeNoteCount
  have hgate := h.gate_iff
  have hslide := h.slide_iff
  have hle := h.count_le
  refine ⟨?_, ?_, ?_, ?_⟩
  · rw [noteOffPrimary_gate, noteOffPrimary_count]
    split
    · simp only [Bool.false_eq_true, false_iff]
      omega
    · rw [hgate]
      omega
  · rw [noteOffPrimary_slide, noteOffPrimary_count]
    split
    · simp only [Bool.false_eq_true, false_iff]
      omega
    · rw [hslide]
      omega
  · rw [noteOffPrimary_gate, noteOffPrimary_accent]
    split
    · exact id
    · exact h.accent_gate
  · rw [noteOffPrimary_count, (noteOffPrimary_hostSide s).params]
    omega

/-- Only the two note commands on the primary channel write its record (R36). -/
theorem exec_ch0_cases {i : Instr} {s t : State} (h : exec i s = .next t) :
    (∃ p v, i = .noteOn 0 p v ∧ t = noteOnPrimary p v s) ∨
    (∃ p v, i = .noteOff 0 p v ∧ t = noteOffPrimary s) ∨
    t.ch0 = s.ch0 := by
  cases hi : isNote i with
  | false => exact .inr (.inr (exec_clockCommand_noteSide hi h).ch0)
  | true =>
    rcases exec_note_cases hi h with hon | ⟨k, c, p, v, -, -, rfl⟩ | hoff | ⟨k, c, p, v, -, -, rfl⟩ |
      ⟨c, p, v, -, -, rfl⟩ | ⟨c, n, v, -, -, rfl⟩ | ⟨c, n, v, -, -, rfl⟩
    case inl => exact .inl hon
    case inr.inr.inl => exact .inr (.inl hoff)
    all_goals exact .inr (.inr rfl)

theorem PrimaryOk.exec {i : Instr} {s t : State} (hs : PrimaryOk s) (hmax : 1 ≤ s.params.countMax.toNat)
    (h : exec i s = .next t) : PrimaryOk t := by
  obtain ⟨p, v, -, rfl⟩ | ⟨p, v, -, rfl⟩ | hch := exec_ch0_cases h
  · exact primaryOk_noteOnPrimary hs hmax p v
  · exact primaryOk_noteOffPrimary hs
  · exact hs.of_same hch (exec_hostSide h).params

/-- Settles O55: a reset establishes the invariants, and a command keeps them because each writer of the record does. -/
theorem stepKeepsPrimaryInvariants : Obligations.StepKeepsPrimaryInvariants := by
  unfold Obligations.StepKeepsPrimaryInvariants
  intro s t hmax hs h
  obtain ⟨rest, -, rfl⟩ | ⟨c, rest, i, u, -, -, hu, rfl⟩ := step_cases h
  · exact (primaryOk_resetWith s.params).of_same rfl rfl
  · have haccept : PrimaryOk (s.accept c rest) := hs.of_same rfl rfl
    exact (haccept.exec hmax hu).of_same rfl rfl

end Sys2Proof.Machine
end


section
/-! The invariants of the clock channels (10_state.md R38): a count stays below its threshold, and at 0 while the
transport is stopped. -/

namespace Sys2Proof.Machine

theorem ClocksOk.of_same {s t : State} (h : ClocksOk s) (hclk : t.clk = s.clk)
    (hrun : t.transportRunning = s.transportRunning) (hp : t.params = s.params) : ClocksOk t := by
  refine ⟨?_, ?_, ?_, ?_⟩ <;> rw [hclk]
  · exact hp ▸ h.channel_count
  · exact h.ticks_below
  · exact h.ticks_small
  · exact hrun ▸ h.stopped_zero

/-- A count below its threshold is at most 767, as no threshold exceeds 768 (R73). -/
theorem clocksOk_of_ticks_below {s : State} (hlen : s.clk.length = s.params.nClkTotal)
    (hbelow : ∀ c ∈ s.clk, c.tickCount.toNat < c.threshold)
    (hzero : s.transportRunning = false → ∀ c ∈ s.clk, c.tickCount.toNat = 0) : ClocksOk s := by
  refine ⟨hlen, hbelow, fun c hc => ?_, hzero⟩
  have hlt := hbelow c hc
  have hthr := c.threshold_bounds
  omega

theorem ClockChannel.threshold_pos (c : ClockChannel) : 0 < c.threshold := by
  have := c.threshold_bounds
  omega

theorem clocksOk_resetWith (p : Params) : ClocksOk (State.resetWith p) := by
  have hcount : ∀ c ∈ (State.resetWith p).clk, c.tickCount.toNat = 0 := by
    intro c hc
    obtain ⟨j, hj⟩ := List.mem_iff_getElem?.mp hc
    obtain rfl := eq_reset_of_resetWith_clk hj
    rfl
  exact clocksOk_of_ticks_below (resetWith_clk_length p) (fun c hc => hcount c hc ▸ c.threshold_pos) fun _ => hcount

/-- Every record after a command stands where one stood before it. -/
theorem exec_exists_channel_before {i : Instr} {s t : State} {j : Nat} {d : ClockChannel} (h : exec i s = .next t)
    (hd : t.clk[j]? = some d) : ∃ c, s.clk[j]? = some c := by
  obtain ⟨hlt, -⟩ := List.getElem?_eq_some_iff.mp hd
  exact ⟨_, List.getElem?_eq_getElem (exec_clk_length h ▸ hlt)⟩

/-- Only START, CONTINUE and STOP write the transport flag (R45). -/
theorem exec_transportRunning_cases {i : Instr} {s t : State} (h : exec i s = .next t) :
    ((i = .start ∨ i = .cont) ∧ t.transportRunning = true) ∨ (i = .stop ∧ t.transportRunning = false) ∨
    t.transportRunning = s.transportRunning := by
  cases hi : isNote i with
  | true => exact .inr (.inr (exec_note_clockSide hi h).transportRunning)
  | false =>
    rcases exec_clockCommand_cases hi h with ⟨-, -, rfl⟩ | ⟨-, -, rfl⟩ | ⟨hi, rfl⟩ | ⟨hi, rfl⟩ | ⟨-, rfl⟩ |
      ⟨j, r, c, -, -, rfl⟩ | ⟨j, c, -, -, rfl⟩
    case inr.inr.inl => exact .inl ⟨hi, rfl⟩
    case inr.inr.inr.inl => exact .inr (.inl ⟨hi, rfl⟩)
    all_goals exact .inr (.inr rfl)

/-- After any command a count is below its threshold, if it was before. -/
theorem exec_ticks_below {i : Instr} {s t : State} {j : Nat} {c d : ClockChannel} (h : exec i s = .next t)
    (hc : s.clk[j]? = some c) (hd : t.clk[j]? = some d) (hbelow : c.tickCount.toNat < c.threshold) :
    d.tickCount.toNat < d.threshold := by
  obtain rfl | ⟨-, -, rfl⟩ | ⟨-, rfl⟩ | ⟨-, rfl⟩ | ⟨-, rfl⟩ | ⟨b, r, -, -, rfl⟩ := exec_channel h hc hd
  · exact hbelow
  · split
    · exact ClockChannel.threshold_pos _
    · exact Nat.lt_of_not_le ‹_›
  · exact ClockChannel.threshold_pos _
  · exact ClockChannel.threshold_pos _
  · split <;> exact hbelow
  · exact ClockChannel.threshold_pos _

/-- After any command a count is 0 while stopped, if it was before: a count moves only while running (R175). -/
theorem exec_stopped_zero {i : Instr} {s t : State} {j : Nat} {c d : ClockChannel} (h : exec i s = .next t)
    (hc : s.clk[j]? = some c) (hd : t.clk[j]? = some d) (hzero : s.transportRunning = false → c.tickCount.toNat = 0)
    (ht : t.transportRunning = false) : d.tickCount.toNat = 0 := by
  obtain ⟨-, hrun⟩ | ⟨rfl, -⟩ | hrun := exec_transportRunning_cases h
  · rw [ht] at hrun
    cases hrun
  · cases h
    rw [stop_clk, List.getElem?_map, hc] at hd
    cases hd
    rfl
  · have hs : s.transportRunning = false := hrun ▸ ht
    obtain rfl | ⟨-, hr, -⟩ | ⟨-, rfl⟩ | ⟨-, rfl⟩ | ⟨-, rfl⟩ | ⟨b, r, -, -, rfl⟩ := exec_channel h hc hd
    · exact hzero hs
    · rw [hs] at hr
      cases hr
    · rfl
    · rfl
    · split <;> exact hzero hs
    · rfl

theorem ClocksOk.exec {i : Instr} {s t : State} (hs : ClocksOk s) (h : exec i s = .next t) : ClocksOk t := by
  have hbefore {d : ClockChannel} (hd : d ∈ t.clk) : ∃ (j : Nat) (c : ClockChannel), c ∈ s.clk ∧ s.clk[j]? = some c ∧
      t.clk[j]? = some d := by
    obtain ⟨j, hj⟩ := List.mem_iff_getElem?.mp hd
    obtain ⟨c, hc⟩ := exec_exists_channel_before h hj
    exact ⟨j, c, List.mem_of_getElem? hc, hc, hj⟩
  refine clocksOk_of_ticks_below ?_ (fun d hd => ?_) fun ht d hd => ?_
  · rw [exec_clk_length h, hs.channel_count, (exec_hostSide h).params]
  · obtain ⟨j, c, hmem, hc, hj⟩ := hbefore hd
    exact exec_ticks_below h hc hj (hs.ticks_below c hmem)
  · obtain ⟨j, c, hmem, hc, hj⟩ := hbefore hd
    exact exec_stopped_zero h hc hj (fun hrun => hs.stopped_zero hrun c hmem) ht

/-- Settles O56: a reset establishes the invariants, and a command keeps them channel by channel. -/
theorem stepKeepsClockInvariants : Obligations.StepKeepsClockInvariants := by
  unfold Obligations.StepKeepsClockInvariants
  intro s t hs h
  obtain ⟨rest, -, rfl⟩ | ⟨c, rest, i, u, -, -, hu, rfl⟩ := step_cases h
  · exact (clocksOk_resetWith s.params).of_same rfl rfl rfl
  · have haccept : ClocksOk (s.accept c rest) := hs.of_same rfl rfl rfl
    exact (haccept.exec hu).of_same rfl rfl rfl

end Sys2Proof.Machine
end


section
/-! The observation record stays true (10_state.md R43, R52; 30_encoding.md R104): every command is made of operations
that keep it. -/

namespace Sys2Proof.Machine

theorem observationOk_resetWith (p : Params) : ObservationOk (State.resetWith p) where
  selects_high _ := rfl
  bus_is_frames := rfl
  words_legal := List.forall_mem_nil _
  cv_is_last_sent := rfl
  lines_are_levels l := (level_resetWith p l).symm
  lines_per_command := rfl

/-! ## Each channel's part takes its PULSE line where its record says -/

/-- An event list that is empty leaves every line, so the record must have kept its flag. -/
theorem line_of_no_event {c d : ClockChannel} {j : Nat} {l : Line} {level : Bool} (hd : d.pulseActive = c.pulseActive)
    (h : Line.pulse j = l → level = c.pulseActive) : level = if Line.pulse j = l then d.pulseActive else level := by
  split
  · rw [hd]
    exact h ‹_›
  · rfl

theorem ClockChannel.line_tick (policy : Retrigger) (now : Timestamp) (c : ClockChannel) (j : Nat) (l : Line)
    (level : Bool) (h : Line.pulse j = l → level = c.pulseActive) :
    (c.tick policy now j).2.foldl (lineAfterEvent l) level =
      if Line.pulse j = l then (c.tick policy now j).1.pulseActive else level := by
  obtain ⟨-, htick⟩ | ⟨-, htick⟩ := c.tick_cases policy now j <;> rw [htick]
  · exact line_fireEvents l policy j c.pulseActive level h
  · exact line_of_no_event (d := { c with tickCount := c.tickCount + 1 }) rfl h

theorem ClockChannel.line_expire (now : Timestamp) (c : ClockChannel) (j : Nat) (l : Line) (level : Bool)
    (h : Line.pulse j = l → level = c.pulseActive) :
    (c.expire now j).2.foldl (lineAfterEvent l) level =
      if Line.pulse j = l then (c.expire now j).1.pulseActive else level := by
  obtain ⟨⟨hactive, -⟩, hexpire⟩ | ⟨-, hexpire⟩ := c.expire_cases now j <;> rw [hexpire]
  · have hline := line_lineChange l (.pulse j) c.pulseActive false level h
    rwa [hactive] at hline
  · exact line_of_no_event (d := c) rfl h

theorem ObservationOk.startTransport {s : State} (h : ObservationOk s) : ObservationOk s.startTransport :=
  (h.setTransport true).forEachClock _ (fun c j => c.busTrace_restart _ _ j)
    fun c j l level => line_fireEvents l _ j c.pulseActive level

theorem ObservationOk.stop {s : State} (h : ObservationOk s) :
    ObservationOk ((s.setTransport false).forEachClock fun c j => c.halt j) :=
  (h.setTransport false).forEachClock _ (fun c j => c.busTrace_halt j)
    fun c j l level => line_lineChange l (.pulse j) c.pulseActive false level

theorem ObservationOk.clock {s : State} (h : ObservationOk s) :
    ObservationOk (s.forEachClock fun c j => c.tick s.params.retrigger s.now j) :=
  h.forEachClock _ (fun c j => c.busTrace_tick _ _ j) (ClockChannel.line_tick _ _)

theorem ObservationOk.poll {s : State} (h : ObservationOk s) :
    ObservationOk (s.forEachClock fun c j => c.expire s.now j) :=
  h.forEachClock _ (fun c j => c.busTrace_expire _ j) (ClockChannel.line_expire _)

/-! ## The note commands -/

theorem ObservationOk.noteOnPrimary {s : State} (h : ObservationOk s) (p v : Data7) :
    ObservationOk (noteOnPrimary p v s) := by
  have hbase := (((h.setCount (satInc s.ch0.activeNoteCount s.params.countMax)).dacFrame 0 .A
    ((pitchCode s.params p.toNat).setWidth 16)).setPrimaryGate true).setAccent (accentOf v)
  rw [noteOnPrimary_eq]
  split
  · exact hbase.setSlide true
  · exact hbase

theorem ObservationOk.noteOffPrimary {s : State} (h : ObservationOk s) : ObservationOk (noteOffPrimary s) := by
  have hcount := h.setCount (satDec s.ch0.activeNoteCount)
  have hslide := hcount.setSlide false
  have hgate := (hslide.setPrimaryGate false).setAccent false
  rw [noteOffPrimary_eq]
  split
  · exact hcount
  split
  · split
    · exact hgate.dacFrame 0 .B 0
    · exact hgate
  · exact hslide

theorem ObservationOk.noteOnSecondary {s : State} (h : ObservationOk s) (k : Fin 3) (p v : Data7) :
    ObservationOk (noteOnSecondary k p v s) :=
  ((h.dacFrame k.succ .A _).dacFrame k.succ .B _).setSecondaryGate k true

theorem ObservationOk.noteOffSecondary {s : State} (h : ObservationOk s) (k : Fin 3) :
    ObservationOk (noteOffSecondary k s) :=
  (h.dacFrame k.succ .B _).setSecondaryGate k false

/-! ## Every command -/

theorem ObservationOk.exec {i : Instr} {s t : State} (hs : ObservationOk s) (h : exec i s = .next t) :
    ObservationOk t := by
  rcases exec_cases h with ⟨p, v, -, rfl⟩ | ⟨k, c, p, v, -, -, rfl⟩ | ⟨p, v, -, rfl⟩ | ⟨k, c, p, v, -, -, rfl⟩ |
    ⟨c, p, v, -, -, rfl⟩ | ⟨c, n, v, -, -, rfl⟩ | ⟨c, n, v, -, -, rfl⟩ | ⟨-, -, rfl⟩ | ⟨-, -, rfl⟩ | ⟨-, rfl⟩ |
    ⟨-, rfl⟩ | ⟨-, rfl⟩ | ⟨j, r, c, -, hc, rfl⟩ | ⟨j, c, -, -, rfl⟩
  · exact hs.noteOnPrimary p v
  · exact hs.noteOnSecondary k p v
  · exact hs.noteOffPrimary
  · exact hs.noteOffSecondary k
  · exact hs
  · exact hs.dacFrame 0 .B _
  · exact hs
  · exact hs
  · exact hs.clock
  · exact hs.startTransport
  · exact hs.stop
  · exact hs.poll
  · exact hs.configure r hc
  · exact hs.setRdata _

/-- Retiring a command adds its record of line levels and advances the position (R9, R52). -/
theorem ObservationOk.retire {s : State} (h : ObservationOk s) : ObservationOk s.retire where
  selects_high := h.selects_high
  bus_is_frames := h.bus_is_frames
  words_legal := h.words_legal
  cv_is_last_sent := h.cv_is_last_sent
  lines_are_levels l := (h.lines_are_levels l).trans (by cases l <;> rfl)
  lines_per_command := by simp [h.lines_per_command]

/-- Settles O57: a reset establishes the invariant, and a command keeps it because each operation in it does. -/
theorem stepKeepsTheObservationTrue : Obligations.StepKeepsTheObservationTrue := by
  unfold Obligations.StepKeepsTheObservationTrue
  intro s t hs h
  obtain ⟨rest, -, rfl⟩ | ⟨c, rest, i, u, -, -, hu, rfl⟩ := step_cases h
  · exact (observationOk_resetWith s.params).of_same rfl rfl fun l => by cases l <;> rfl
  · have haccept : ObservationOk (s.accept c rest) := hs.of_same rfl rfl fun l => by cases l <;> rfl
    exact (haccept.exec hu).retire

/-- Settles O58: each of the three from the reset values. -/
theorem invariantsHoldAtReset : Obligations.InvariantsHoldAtReset := by
  unfold Obligations.InvariantsHoldAtReset
  exact fun p => ⟨primaryOk_resetWith p, clocksOk_resetWith p, observationOk_resetWith p⟩

/-! ## Unwritten outputs -/

theorem cvAfterFrames_concat (frames : List Frame) (f : Frame) :
    cvAfterFrames (frames ++ [f]) = cvAfterFrame (cvAfterFrames frames) f := by
  simp [cvAfterFrames]

/-- An output holds a code exactly when some frame addressed it (R127). -/
theorem cvAfterFrames_get_eq_none_iff (frames : List Frame) (d : Fin 4) (sub : SubChannel) :
    (cvAfterFrames frames)[d].get sub = none ↔ ∀ f ∈ frames, ¬ (f.device = d ∧ subOf f.word = sub) := by
  induction frames using List.reverseRecOn with
  | nil => cases sub <;> simp [cvAfterFrames, DacOutputs.get]
  | append_singleton frames f ih =>
    rw [cvAfterFrames_concat, List.forall_mem_append, List.forall_mem_singleton]
    by_cases haddr : f.device = d ∧ subOf f.word = sub
    · obtain ⟨rfl, rfl⟩ := haddr
      rw [cvAfterFrame_get_addressed]
      simp
    · rw [cvAfterFrame_get_other _ _ fun ⟨hd, hsub⟩ => haddr ⟨hd.symm, hsub.symm⟩, ih]
      exact (and_iff_left haddr).symm

/-- Settles O59: the outputs hold what the frames last sent, and a frame writes the one output it addresses. -/
theorem unwrittenUntilTheFirstFrame : Obligations.UnwrittenUntilTheFirstFrame := by
  unfold Obligations.UnwrittenUntilTheFirstFrame
  intro s d sub hs
  rw [hs.cv_is_last_sent]
  exact cvAfterFrames_get_eq_none_iff s.obs.frames d sub

end Sys2Proof.Machine
end


section
/-! The note commands and CONTROL_CHANGE (41_note_events.md R140 to R149): the outputs after their frames, the order of
their effects, and the note states of the primary channel. -/

namespace Sys2Proof.Machine

/-! ## Secondary channels -/

/-- The zero frame on sub-channel B of device `d` (R125, R127). -/
theorem cvAfterFrame_zero (cv : Vector DacOutputs 4) (d : Fin 4) :
    cvAfterFrame cv ⟨d, 0xB000#16⟩ = cv.set d.val ⟨cv[d.val].a, some 0⟩ := cvAfterFrame_B cv d 0

section
variable (pitch velocity : Data7) (s : State) (i : Fin 3)

/-- The two frames of NOTE_ON on a secondary channel, as the words of R144. -/
theorem noteOnSecondary_code_frames :
    (noteOnSecondary i pitch velocity s).obs.frames = s.obs.frames ++
      [⟨i.succ, 0x3000#16 ||| (pitchCode s.params pitch.toNat).setWidth 16⟩,
        ⟨i.succ, 0xB000#16 ||| (velocityCode s.params velocity).setWidth 16⟩] := by
  rw [noteOnSecondary_frames, dacWord_A, dacWord_B]

theorem noteOnSecondary_cv_addressed :
    (noteOnSecondary i pitch velocity s).obs.cv[i.succ] =
      ⟨some (pitchCode s.params pitch.toNat), some (velocityCode s.params velocity)⟩ := by
  rw [noteOnSecondary_cv, cvAfterFrame_A, cvAfterFrame_B]
  simp

theorem noteOnSecondary_cv_of_ne {d : Fin 4} (h : d ≠ i.succ) :
    (noteOnSecondary i pitch velocity s).obs.cv[d] = s.obs.cv[d] := by
  rw [noteOnSecondary_cv, cvAfterFrame_getElem_of_ne _ _ h, cvAfterFrame_getElem_of_ne _ _ h]

theorem noteOffSecondary_cv_addressed :
    (noteOffSecondary i s).obs.cv[i.succ] = ⟨s.obs.cv[i.succ].a, some 0⟩ := by
  rw [noteOffSecondary_cv, cvAfterFrame_zero]
  exact Vector.getElem_set_self _

theorem noteOffSecondary_cv_of_ne {d : Fin 4} (h : d ≠ i.succ) :
    (noteOffSecondary i s).obs.cv[d] = s.obs.cv[d] := by
  rw [noteOffSecondary_cv, cvAfterFrame_getElem_of_ne _ _ h]

/-- The gate record written is the one read back. -/
theorem ch_set_gate (b : Bool) : (s.ch.set i.val ⟨b⟩)[i].gate = b :=
  congrArg SecondaryChannel.gate (Vector.getElem_set_self _)

theorem ch_set_of_ne (r : SecondaryChannel) {k : Fin 3} (h : k ≠ i) : (s.ch.set i.val r)[k] = s.ch[k] :=
  Vector.getElem_set_ne _ _ fun heq => h (Fin.ext heq.symm)
end

/-- Settles O23: each field of the state `noteOnSecondary` leaves. -/
theorem noteOnSecondary_spec : Obligations.NoteOnSecondary := by
  unfold Obligations.NoteOnSecondary
  intro s i c pitch velocity hc
  exact ⟨_, exec_noteOn_secondary pitch velocity s hc, ch_set_gate s i true, fun _ => ch_set_of_ne s i _, rfl,
    noteOnSecondary_code_frames pitch velocity s i, noteOnSecondary_cv_addressed pitch velocity s i,
    fun _ => noteOnSecondary_cv_of_ne pitch velocity s i, noteOnSecondary_clockSide .., noteOnSecondary_hostSide ..⟩

/-- Settles O25: each field of the state `noteOffSecondary` leaves. -/
theorem noteOffSecondary_spec : Obligations.NoteOffSecondary := by
  unfold Obligations.NoteOffSecondary
  intro s i c pitch velocity hc
  exact ⟨_, exec_noteOff_secondary pitch velocity s hc, ch_set_gate s i false, fun _ => ch_set_of_ne s i _, rfl,
    noteOffSecondary_frames s i, noteOffSecondary_cv_addressed s i, fun _ => noteOffSecondary_cv_of_ne s i,
    noteOffSecondary_clockSide .., noteOffSecondary_hostSide ..⟩

/-- Settles O26: the route of such a channel is ignored. -/
theorem otherMidiChannelsChangeNothing : Obligations.OtherMidiChannelsChangeNothing := by
  unfold Obligations.OtherMidiChannelsChangeNothing
  intro s c pitch velocity hc
  have h4 : 4 ≤ c.toNat := Nat.le_of_succ_le_succ hc
  exact ⟨exec_noteOn_ignored pitch velocity s h4, exec_noteOff_ignored pitch velocity s h4⟩

/-- Settles O27: no branch of NOTE_OFF names its operands. -/
theorem noteOffReadsNoOperand : Obligations.NoteOffReadsNoOperand := by
  unfold Obligations.NoteOffReadsNoOperand
  exact fun _ _ _ _ _ _ => rfl

/-! ## NOTE_OFF on the primary channel -/

theorem opField_encode_noteOff (c : ChannelNibble) (p v : Data7) :
    opField (encode (.noteOff c p v)) = chanOp 0x8#4 c := opField_packWord ..

/-- On device 0 the zero frame of a last release replaces output B alone (R145). -/
theorem noteOffPrimary_cv_zero (s : State) :
    (noteOffPrimary s).obs.cv[0] =
      ⟨s.obs.cv[0].a, if (satDec s.ch0.activeNoteCount).toNat = 0 ∧ s.params.releaseZeroesSecondary = true then
        some 0 else s.obs.cv[0].b⟩ := by
  rw [noteOffPrimary_cv]
  split
  · rw [cvAfterFrame_zero]
    exact Vector.getElem_set_self _
  · rfl

theorem noteOffPrimary_cv_of_ne (s : State) {d : Fin 4} (h : d ≠ 0) :
    (noteOffPrimary s).obs.cv[d] = s.obs.cv[d] := by
  rw [noteOffPrimary_cv]
  split
  · exact cvAfterFrame_getElem_of_ne _ _ h
  · rfl

/-- Settles O24: the opcode, then each field of the state `noteOffPrimary` leaves. -/
theorem noteOffPrimary_spec : Obligations.NoteOffPrimary := by
  unfold Obligations.NoteOffPrimary
  intro s pitch velocity
  refine ⟨?_, noteOffPrimary s, exec_noteOff_primary .., ?_, ?_, ?_, ?_, ?_, ?_, ?_,
    fun _ => noteOffPrimary_cv_of_ne s, noteOffPrimary_ch s, noteOffPrimary_clockSide s, noteOffPrimary_hostSide s⟩
  · rw [opField_encode_noteOff]
    rfl
  · rw [noteOffPrimary_count, satDec_toNat]
  · rw [noteOffPrimary_slide, noteOffPrimary_count]
  · rw [noteOffPrimary_gate, noteOffPrimary_count]
  · rw [noteOffPrimary_accent, noteOffPrimary_count]
  · rw [noteOffPrimary_frames, noteOffPrimary_count]
  · rw [noteOffPrimary_cv_zero]
  · rw [noteOffPrimary_cv_zero, noteOffPrimary_count]

/-! ## The note states of the primary channel -/

theorem noteStateOf_eq_idle_iff (n : BitVec 8) : noteStateOf n = .idle ↔ n.toNat = 0 := by
  unfold noteStateOf
  split
  · simpa
  · split <;> simpa

theorem noteStateOf_eq_held_iff (n : BitVec 8) : noteStateOf n = .held ↔ n.toNat = 1 := by
  unfold noteStateOf
  split
  · simp; omega
  · split <;> simpa

theorem noteStateOf_eq_legato_iff (n : BitVec 8) : noteStateOf n = .legato ↔ 2 ≤ n.toNat := by
  unfold noteStateOf
  split
  · simp; omega
  · split <;> simp <;> omega

section
variable {s : State} (h : PrimaryOk s)
include h

/-! Under R35 the count decides the flags. -/

theorem PrimaryOk.gate_of_pos (hc : 0 < s.ch0.activeNoteCount.toNat) : s.ch0.gate = true := h.gate_iff.mpr hc

theorem PrimaryOk.slide_of_one_lt (hc : 1 < s.ch0.activeNoteCount.toNat) : s.ch0.slide = true := h.slide_iff.mpr hc

theorem PrimaryOk.gate_of_eq_zero (hc : s.ch0.activeNoteCount.toNat = 0) : s.ch0.gate = false :=
  Bool.eq_false_iff.mpr fun hgate => (h.gate_iff.mp hgate).ne' hc

theorem PrimaryOk.slide_of_le_one (hc : s.ch0.activeNoteCount.toNat ≤ 1) : s.ch0.slide = false :=
  Bool.eq_false_iff.mpr fun hslide => (h.slide_iff.mp hslide).not_ge hc

theorem PrimaryOk.accent_of_eq_zero (hc : s.ch0.activeNoteCount.toNat = 0) : s.ch0.accent = false :=
  Bool.eq_false_iff.mpr fun haccent => Bool.eq_false_iff.mp (h.gate_of_eq_zero hc) (h.accent_gate haccent)

theorem PrimaryOk.ch0_of_eq_zero (hc : s.ch0.activeNoteCount.toNat = 0) : s.ch0 = ⟨0, false, false, false⟩ := by
  have hcount : s.ch0.activeNoteCount = 0 := BitVec.eq_of_toNat_eq hc
  calc s.ch0 = ⟨s.ch0.activeNoteCount, s.ch0.gate, s.ch0.slide, s.ch0.accent⟩ := rfl
    _ = ⟨0, false, false, false⟩ := by
      rw [hcount, h.gate_of_eq_zero hc, h.slide_of_le_one (by omega), h.accent_of_eq_zero hc]
end

/-- Settles O28: the count moves as R19 says, and under R35, which both commands keep, it decides the flags. -/
theorem primaryNoteStateTable : Obligations.PrimaryNoteStateTable := by
  unfold Obligations.PrimaryNoteStateTable
  intro s t p v hs hmax
  simp only [noteStateOf_eq_idle_iff, noteStateOf_eq_held_iff, noteStateOf_eq_legato_iff]
  refine ⟨fun h => ?_, fun h => ?_⟩
  · have ht : PrimaryOk t := hs.exec (by omega) h
    have hcount : t.ch0.activeNoteCount.toNat =
        min (s.ch0.activeNoteCount.toNat + 1) s.params.countMax.toNat := by
      obtain rfl := Host.Outcome.next.inj ((exec_noteOn_primary p v s).symm.trans h)
      rw [noteOnPrimary_count, satInc_toNat]
    exact ⟨fun hidle => ⟨by omega, ht.gate_of_pos (by omega), ht.slide_of_le_one (by omega)⟩,
      fun hheld => ⟨by omega, by omega, ht.slide_of_one_lt (by omega), ht.gate_of_pos (by omega)⟩,
      fun hlegato => ⟨by omega, hcount⟩⟩
  · have ht : PrimaryOk t := hs.exec (by omega) h
    have hcount : t.ch0.activeNoteCount.toNat = s.ch0.activeNoteCount.toNat - 1 := by
      obtain rfl := Host.Outcome.next.inj ((exec_noteOff_primary p v s).symm.trans h)
      rw [noteOffPrimary_count, satDec_toNat]
    exact ⟨fun hidle => ⟨by omega, (ht.ch0_of_eq_zero (by omega)).trans (hs.ch0_of_eq_zero hidle).symm⟩,
      fun hheld => ⟨by omega, ht.gate_of_eq_zero (by omega), ht.accent_of_eq_zero (by omega)⟩,
      fun hlegato => ⟨hcount, fun h2 => ⟨by omega, ht.slide_of_le_one (by omega)⟩, fun h2 => by omega⟩⟩

/-! ## The order of effects -/

/-- Settles O30: the events of `noteOnPrimary` and `noteOnSecondary`, their words written as codes. -/
theorem pitchFrameBeforeGate : Obligations.PitchFrameBeforeGate := by
  unfold Obligations.PitchFrameBeforeGate
  intro s pitch velocity
  refine ⟨⟨_, exec_noteOn_primary .., ?_⟩, fun i c hc => ⟨_, exec_noteOn_secondary pitch velocity s hc, ?_⟩⟩
  · rw [noteOnPrimary_events, dacWord_A, noteOnPrimary_accent]
    rfl
  · rw [noteOnSecondary_events, dacWord_A, dacWord_B]
    rfl

/-- A write of `false` is an event exactly when the line was high (log 9). -/
theorem lineChange_false (l : Line) (b : Bool) : lineChange l b false = if b = true then [.line l false] else [] := by
  cases b <;> rfl

/-- Settles O31: the events of `noteOffPrimary` and `noteOffSecondary`. -/
theorem noteOffOrderOfEffects : Obligations.NoteOffOrderOfEffects := by
  unfold Obligations.NoteOffOrderOfEffects
  intro s pitch velocity
  refine ⟨⟨_, exec_noteOff_primary .., ?_⟩, fun i c hc => ⟨_, exec_noteOff_secondary pitch velocity s hc, ?_⟩⟩
  · rw [noteOffPrimary_events, noteOffPrimary_count]
    rfl
  · rw [noteOffSecondary_events, lineChange_false]
    rfl

/-! ## CONTROL_CHANGE -/

/-- Settles O32: the filter admits the command, which then is one secondary frame to device 0. -/
theorem consumedControlChange : Obligations.ConsumedControlChange := by
  unfold Obligations.ConsumedControlChange
  intro s c controller value hctl hchan
  have hconsumed : ccConsumed s.params c controller = true := by
    obtain h | h := hchan <;> simp [ccConsumed, hctl, h]
  refine ⟨_, exec_controlChange_consumed value hconsumed, ?_, ?_, fun d hd => ?_, ?_, rfl, rfl,
    dacFrame_clockSide .., dacFrame_hostSide ..⟩
  · rw [State.writeSecondary_eq, dacWord_B]
    rfl
  · rw [State.writeSecondary_eq, State.dacFrame_cv, cvAfterFrame_B]
    exact Vector.getElem_set_self _
  · exact cvAfterFrame_getElem_of_ne _ _ hd
  · rw [State.writeSecondary_eq, dacWord_B]
    rfl

end Sys2Proof.Machine
end


section
/-! What each command may write and read (10_state.md R31, R36, R45, R49; 30_encoding.md R92; 60_exceptions.md R228). -/

namespace Sys2Proof.Machine

/-- Only NOTE_ON and NOTE_OFF write a channel record (R36). -/
theorem exec_channelRecord_cases {i : Instr} {s t : State} (h : exec i s = .next t) :
    (∃ c p v, i = .noteOn c p v ∨ i = .noteOff c p v) ∨ (t.ch0 = s.ch0 ∧ t.ch = s.ch) := by
  cases hi : isNote i with
  | false =>
    have hside := exec_clockCommand_noteSide hi h
    exact .inr ⟨hside.ch0, hside.ch⟩
  | true =>
    obtain ⟨c, p, v, hic, -⟩ | ⟨c, n, v, -, -, hch0, hch⟩ := exec_note_reach hi h
    · exact .inl ⟨c, p, v, hic⟩
    · exact .inr ⟨hch0, hch⟩

/-- Only GET_DIV writes `rdata` (R49). -/
theorem exec_rdata_cases {i : Instr} {s t : State} (h : exec i s = .next t) :
    (∃ j, i = .getDiv j) ∨ t.rdata = s.rdata := by
  cases hi : isNote i with
  | true => exact .inr (exec_note_clockSide hi h).rdata
  | false =>
    rcases exec_clockCommand_cases hi h with ⟨-, -, rfl⟩ | ⟨-, -, rfl⟩ | ⟨-, rfl⟩ | ⟨-, rfl⟩ | ⟨-, rfl⟩ |
      ⟨j, r, c, -, -, rfl⟩ | ⟨j, c, hi, -, -⟩
    case inr.inr.inr.inr.inr.inr => exact .inl ⟨j, hi⟩
    all_goals exact .inr rfl

/-- Only the clock commands but GET_DIV write a clock record (R36). -/
theorem exec_clk_cases {i : Instr} {s t : State} (h : exec i s = .next t) :
    (i = .clock ∨ i = .start ∨ i = .cont ∨ i = .stop ∨ i = .poll ∨ ∃ j r, i = .setDiv j r) ∨ t.clk = s.clk := by
  cases hi : isNote i with
  | true => exact .inr (exec_note_clockSide hi h).clk
  | false =>
    rcases exec_clockCommand_cases hi h with ⟨rfl, -⟩ | ⟨rfl, -⟩ | ⟨rfl | rfl, -⟩ | ⟨rfl, -⟩ | ⟨rfl, -⟩ |
      ⟨j, r, _, rfl, -⟩ | ⟨_, _, -, -, rfl⟩
    case inr.inr.inr.inr.inr.inr => exact .inr rfl
    all_goals exact .inl (by simp)

/-- Only SET_DIV on a channel writes its division index (R48). -/
theorem exec_divisionIndex_cases {i : Instr} {s t : State} {j : Nat} {c d : ClockChannel} (h : exec i s = .next t)
    (hc : s.clk[j]? = some c) (hd : t.clk[j]? = some d) :
    (∃ b r, i = .setDiv b r ∧ b.toNat = j) ∨ d.divisionIndex = c.divisionIndex := by
  obtain rfl | ⟨-, -, rfl⟩ | ⟨-, rfl⟩ | ⟨-, rfl⟩ | ⟨-, rfl⟩ | ⟨b, r, hi, hj, -⟩ := exec_channel h hc hd
  case inr.inr.inr.inr.inr => exact .inl ⟨b, r, hi, hj⟩
  all_goals refine .inr ?_
  · rfl
  · split <;> rfl
  · rfl
  · rfl
  · split <;> rfl

/-- Settles O36: each part is the contrapositive of what the commands other than its owners leave alone. -/
theorem stateIsWrittenByItsOwners : Obligations.StateIsWrittenByItsOwners := by
  unfold Obligations.StateIsWrittenByItsOwners
  intro i s t h
  refine ⟨(exec_rdata_cases h).resolve_right, fun hne => ?_,
    fun j c d hc hd => (exec_divisionIndex_cases h hc hd).resolve_right,
    fun hne => (exec_channelRecord_cases h).resolve_right fun ⟨hch0, hch⟩ => hne.elim (· hch0) (· hch),
    (exec_clk_cases h).resolve_right, exec_clk_length h⟩
  obtain ⟨hi, -⟩ | ⟨hi, -⟩ | heq := exec_transportRunning_cases h
  · exact hi.imp_right .inl
  · exact .inr (.inr hi)
  · exact absurd heq hne

/-! ## The timestamp -/

theorem noteOnPrimary_withNow (pitch velocity : Data7) (s : State) (stamp : Timestamp) :
    noteOnPrimary pitch velocity { s with now := stamp } =
      { noteOnPrimary pitch velocity s with now := stamp } := by
  rw [noteOnPrimary_eq, noteOnPrimary_eq pitch velocity s]
  dsimp only
  split <;> rfl

theorem noteOffPrimary_withNow (s : State) (stamp : Timestamp) :
    noteOffPrimary { s with now := stamp } = { noteOffPrimary s with now := stamp } := by
  rw [noteOffPrimary_eq, noteOffPrimary_eq s]
  dsimp only
  repeat' split
  all_goals rfl

/-- Settles O37: no case of the other commands reads the timestamp. -/
theorem onlyFiresAndPollReadTheTimestamp : Obligations.OnlyFiresAndPollReadTheTimestamp := by
  unfold Obligations.OnlyFiresAndPollReadTheTimestamp
  intro i s t stamp hclock hstart hcont hpoll h
  rcases exec_cases h with ⟨p, v, rfl, rfl⟩ | ⟨k, c, p, v, rfl, hc, rfl⟩ | ⟨p, v, rfl, rfl⟩ |
    ⟨k, c, p, v, rfl, hc, rfl⟩ | ⟨c, p, v, rfl | rfl, hc, rfl⟩ | ⟨c, n, v, rfl, hc, rfl⟩ | ⟨c, n, v, rfl, hc, rfl⟩ |
    ⟨hi, -⟩ | ⟨hi, -⟩ | ⟨hi | hi, -⟩ | ⟨rfl, rfl⟩ | ⟨hi, -⟩ | ⟨j, r, c, rfl, hc, rfl⟩ | ⟨j, c, rfl, hc, rfl⟩
  · rw [exec_noteOn_primary, noteOnPrimary_withNow]
  · exact exec_noteOn_secondary p v _ hc
  · rw [exec_noteOff_primary, noteOffPrimary_withNow]
  · exact exec_noteOff_secondary p v _ hc
  · exact exec_noteOn_ignored p v _ hc
  · exact exec_noteOff_ignored p v _ hc
  · exact exec_controlChange_consumed v hc
  · exact exec_controlChange_unconsumed v hc
  · exact absurd hi hclock
  · exact absurd hi hclock
  · exact absurd hi hstart
  · exact absurd hi hcont
  · exact exec_stop _
  · exact absurd hi hpoll
  · exact exec_setDiv r hc
  · exact exec_getDiv hc

/-! ## The number of frames -/

/-- Settles O38: the frames of each note command are listed, and a clock command has none. -/
theorem atMostTwoFramesPerCommand : Obligations.AtMostTwoFramesPerCommand := by
  unfold Obligations.AtMostTwoFramesPerCommand
  intro i s t h
  cases hi : isNote i with
  | false => exact ⟨[], by simp [(exec_clockCommand_noteSide hi h).frames], by simp⟩
  | true =>
    rcases exec_note_cases hi h with ⟨p, v, -, rfl⟩ | ⟨k, c, p, v, -, -, rfl⟩ | ⟨p, v, -, rfl⟩ |
      ⟨k, c, p, v, -, -, rfl⟩ | ⟨c, p, v, -, -, rfl⟩ | ⟨c, n, v, -, -, rfl⟩ | ⟨c, n, v, -, -, rfl⟩
    · exact ⟨_, noteOnPrimary_frames p v s, by simp⟩
    · exact ⟨_, noteOnSecondary_frames p v s k, by simp⟩
    · exact ⟨_, noteOffPrimary_frames s, by split <;> simp⟩
    · exact ⟨_, noteOffSecondary_frames s k, by simp⟩
    · exact ⟨[], by simp, by simp⟩
    · exact ⟨_, s.dacFrame_frames 0 _, by simp⟩
    · exact ⟨[], by simp, by simp⟩

end Sys2Proof.Machine
end


section
/-! CLOCK, START, CONTINUE and POLL (42_clock_transport.md R175, R177, R178, R190) and the configuration port (R181,
R195): the state each leaves. -/

namespace Sys2Proof.Machine

theorem SameNoteSide.refl (s : State) : SameNoteSide s s := ⟨rfl, rfl, rfl, rfl, rfl⟩

theorem SameHostSide.refl (s : State) : SameHostSide s s := ⟨rfl, rfl, rfl, rfl, rfl⟩

/-- Settles O39: stopped, CLOCK answers the state it was given; running, it ticks each record and nothing else. -/
theorem clockCountsAndFires : Obligations.ClockCountsAndFires := by
  unfold Obligations.ClockCountsAndFires
  intro s
  cases hr : s.transportRunning with
  | false =>
    exact ⟨s, exec_clock_stopped hr, fun _ => rfl, nofun, hr, rfl, .refl s, .refl s⟩
  | true =>
    have h := exec_clock_running hr
    exact ⟨_, h, nofun, fun _ => ⟨exec_clk_length h, fun j c hc => by rw [clock_getElem?, hc]; rfl⟩, hr, rfl,
      exec_clockCommand_noteSide rfl h, exec_hostSide h⟩

/-- Settles O40: the clock records by the map each restart makes of its own, the note section by the silence of a fire
on the bus. -/
theorem startFiresEveryChannel : Obligations.StartFiresEveryChannel := by
  unfold Obligations.StartFiresEveryChannel
  exact ⟨rfl, fun s =>
    ⟨_, exec_start s, rfl, startTransport_clk s, rfl, startTransport_noteSide s, exec_hostSide (exec_start s)⟩⟩

/-- Settles O41: both commands are `startTransport`. -/
theorem continueIsStart : Obligations.ContinueIsStart := by
  unfold Obligations.ContinueIsStart
  exact ⟨rfl, fun s => ⟨_, exec_cont s, exec_start s, rfl, startTransport_clk s⟩⟩

/-- Elapsed time as a difference modulo 2^32 over the naturals (R190). -/
theorem elapsed_toNat (now start : Timestamp) :
    (now - start).toNat = (now.toNat + 2 ^ 32 - start.toNat) % 2 ^ 32 := by
  have := start.isLt
  rw [BitVec.toNat_sub]
  congr 1
  omega

/-- Settles O43: the clock records by the map each expiry makes of its own, with the elapsed time over the naturals. -/
theorem pollRetractsExpiredPulses : Obligations.PollRetractsExpiredPulses := by
  unfold Obligations.PollRetractsExpiredPulses
  intro s
  have h := exec_poll s
  refine ⟨_, h, ?_, rfl, rfl, exec_clockCommand_noteSide rfl h, exec_hostSide h⟩
  simp only [poll_clk, elapsed_toNat]

/-! ## The configuration port -/

theorem setClock_getElem?_self {s : State} {j : Nat} {c : ClockChannel} (d : ClockChannel) (h : s.clk[j]? = some c) :
    (s.setClock j d).clk[j]? = some d := by
  obtain ⟨hlt, -⟩ := List.getElem?_eq_some_iff.mp h
  exact List.getElem?_set_self hlt

/-- Settles O44: the record of channel `j` is the configured one, and SET_DIV writes no other. -/
theorem setDivClampsAndResetsTheCount : Obligations.SetDivClampsAndResetsTheCount := by
  unfold Obligations.SetDivClampsAndResetsTheCount
  intro s j r c hc
  have h := exec_setDiv r hc
  exact ⟨_, c.configure r, h, setClock_getElem?_self _ hc, requestedIndex_toNat r, rfl, rfl, rfl,
    fun k hk => List.getElem?_set_ne hk.symm, exec_clk_length h, rfl, rfl, exec_clockCommand_noteSide rfl h,
    exec_hostSide h, rfl⟩

/-- Settles O45: the index fits in `rdata`, the one field GET_DIV writes. -/
theorem getDivReadsTheIndex : Obligations.GetDivReadsTheIndex := by
  unfold Obligations.GetDivReadsTheIndex
  exact fun s j c hc => ⟨_, exec_getDiv hc, BitVec.toNat_setWidth_of_le (by decide), rfl⟩

/-- Settles O46: reading the absent record gives none, on which both commands refuse. -/
theorem absentClockChannelIsRefused : Obligations.AbsentClockChannelIsRefused := by
  unfold Obligations.AbsentClockChannelIsRefused
  intro s j r h
  have hnone : s.clk[j.toNat]? = none := List.getElem?_eq_none h
  exact ⟨by simp only [exec, execSetDiv, hnone], by simp only [exec, execGetDiv, hnone]⟩

end Sys2Proof.Machine
end


section
/-! When a pulse starts and ends (42_clock_transport.md R171 to R176). -/

namespace Sys2Proof.Machine

/-- Settles O47: of what a command does to a record, only a retraction and an expiry end a pulse. -/
theorem onlyPollAndStopEndAPulse : Obligations.OnlyPollAndStopEndAPulse := by
  unfold Obligations.OnlyPollAndStopEndAPulse
  intro i s t j c d h hc hd hactive hended
  obtain rfl | ⟨-, -, rfl⟩ | ⟨-, rfl⟩ | ⟨hi, -⟩ | ⟨hi, rfl⟩ | ⟨b, r, -, -, rfl⟩ := exec_channel h hc hd
  case inr.inr.inr.inl => exact .inl hi
  case inr.inr.inr.inr.inl =>
    split at hended
    case isTrue hexpired => exact .inr ⟨hi, hexpired.2⟩
    case isFalse => simp [hactive] at hended
  case inr.inl => split at hended <;> simp [hactive] at hended
  all_goals simp [ClockChannel.configure, hactive] at hended

/-- Settles O48: of what a command does to a record, only a fire starts a pulse. -/
theorem onlyAFireStartsAPulse : Obligations.OnlyAFireStartsAPulse := by
  unfold Obligations.OnlyAFireStartsAPulse
  intro i s t j c d h hc hd hidle hstarted
  obtain rfl | ⟨hi, hr, rfl⟩ | ⟨hi, rfl⟩ | ⟨-, rfl⟩ | ⟨-, rfl⟩ | ⟨b, r, -, -, rfl⟩ := exec_channel h hc hd
  case inr.inl =>
    split at hstarted
    case isTrue hthr => exact ⟨by rw [if_pos hthr], .inr (.inr ⟨hi, hr, hthr⟩)⟩
    case isFalse => simp [hidle] at hstarted
  case inr.inr.inl => exact ⟨rfl, hi.imp id .inl⟩
  case inr.inr.inr.inr.inl => split at hstarted <;> simp [hidle] at hstarted
  all_goals simp [ClockChannel.configure, hidle] at hstarted

/-- A channel fires at every START and CONTINUE, and at a running CLOCK that reaches its threshold (R175, R177). -/
theorem exec_fires {i : Instr} {s t : State} {j : Nat} {c : ClockChannel} (hc : s.clk[j]? = some c)
    (hi : i = .start ∨ i = .cont ∨
      (i = .clock ∧ s.transportRunning = true ∧ c.threshold ≤ (c.tickCount + 1).toNat))
    (h : exec i s = .next t) :
    t.clk[j]? = some { c with tickCount := 0, pulseActive := true, pulseStartTime := s.now } := by
  obtain rfl | rfl | ⟨rfl, hr, hthr⟩ := hi
  · cases h
    rw [startTransport_clk, List.getElem?_map, hc]
    rfl
  · cases h
    rw [startTransport_clk, List.getElem?_map, hc]
    rfl
  · rw [exec_clock_running hr] at h
    cases h
    rw [clock_getElem?, hc, Option.map_some, if_pos hthr]

/-! ## Retrigger under EXTEND -/

/-- Every event is the rise of a PULSE line whose pulse was inactive in `s`. -/
def OnlyRises (s : State) (added : List Event) : Prop :=
  ∀ e ∈ added, ∃ k, ∃ c : ClockChannel, s.clk[k]? = some c ∧ c.pulseActive = false ∧ e = .line (.pulse k) true

theorem onlyRises_restart {s : State} (h : s.params.retrigger = .extend) :
    OnlyRises s (sweep (fun c j => c.restart s.params.retrigger s.now j) 0 s.clk).2 := by
  intro e he
  obtain ⟨k, c, hc, he⟩ := mem_sweep_events he
  rw [ClockChannel.restart_eq, h, Nat.zero_add] at he
  exact ⟨k, c, hc, mem_fireEvents_extend he⟩

theorem onlyRises_tick {s : State} (h : s.params.retrigger = .extend) :
    OnlyRises s (sweep (fun c j => c.tick s.params.retrigger s.now j) 0 s.clk).2 := by
  intro e he
  obtain ⟨k, c, hc, he⟩ := mem_sweep_events he
  rw [h, Nat.zero_add] at he
  obtain ⟨-, htick⟩ | ⟨-, htick⟩ := c.tick_cases .extend s.now k <;> rw [htick] at he
  · exact ⟨k, c, hc, mem_fireEvents_extend he⟩
  · cases he

/-- Under EXTEND the fires of a command add only rises of lines that were low (R174). -/
theorem exists_exec_onlyRises {i : Instr} {s : State} (h : s.params.retrigger = .extend)
    (hi : i = .start ∨ i = .cont ∨ i = .clock) :
    ∃ t added, exec i s = .next t ∧ t.obs.events = s.obs.events ++ added ∧ OnlyRises s added := by
  obtain rfl | rfl | rfl := hi
  · exact ⟨_, _, exec_start s, startTransport_events s, onlyRises_restart h⟩
  · exact ⟨_, _, exec_cont s, startTransport_events s, onlyRises_restart h⟩
  · cases hr : s.transportRunning with
    | false => exact ⟨s, [], exec_clock_stopped hr, (List.append_nil _).symm, List.forall_mem_nil _⟩
    | true => exact ⟨_, _, exec_clock_running hr, rfl, onlyRises_tick h⟩

/-- A channel whose pulse is active has no event among rises of inactive lines. -/
theorem OnlyRises.not_mem {s : State} {added : List Event} (h : OnlyRises s added) {j : Nat} {c : ClockChannel}
    (hc : s.clk[j]? = some c) (hactive : c.pulseActive = true) (level : Bool) :
    Event.line (.pulse j) level ∉ added := by
  intro hmem
  obtain ⟨k, c', hc', hidle, he⟩ := h _ hmem
  simp only [Event.line.injEq, Line.pulse.injEq] at he
  obtain ⟨rfl, -⟩ := he
  rw [hc] at hc'
  cases hc'
  rw [hactive] at hidle
  cases hidle

/-- Settles O49: the added events are rises of inactive lines, and a fire leaves its pulse active from now on. -/
theorem retriggerExtendsThePulse : Obligations.RetriggerExtendsThePulse := by
  unfold Obligations.RetriggerExtendsThePulse
  intro i s hextend hi
  obtain ⟨t, added, h, hevents, hrises⟩ := exists_exec_onlyRises hextend hi
  refine ⟨t, added, h, hevents, hrises, fun j c hc hactive => ⟨hrises.not_mem hc hactive, fun hfires => ?_⟩⟩
  have hfire : i = .start ∨ i = .cont ∨
      (i = .clock ∧ s.transportRunning = true ∧ c.threshold ≤ (c.tickCount + 1).toNat) :=
    hi.imp_right (Or.imp_right fun hclock => ⟨hclock, hfires hclock⟩)
  exact ⟨_, exec_fires hc hfire h, rfl, rfl, rfl⟩

end Sys2Proof.Machine
end


section
/-! Runs of CLOCKs (42_clock_transport.md R176, R182): a channel fires on every T-th one. -/

namespace Sys2Proof.Machine

theorem execTimed_cons {stamp : Timestamp} {i : Instr} {s t : State} (rest : List (Timestamp × Instr))
    (h : exec i { s with now := stamp } = .next t) : execTimed ((stamp, i) :: rest) s = execTimed rest t := by
  rw [execTimed, h]

/-- One channel's record after a running CLOCK at `stamp` (R175). -/
def ClockChannel.ticked (c : ClockChannel) (stamp : Timestamp) : ClockChannel :=
  if c.threshold ≤ (c.tickCount + 1).toNat then
    { c with tickCount := 0, pulseActive := true, pulseStartTime := stamp }
  else { c with tickCount := c.tickCount + 1 }

theorem exec_clock_ticked {s : State} {j : Nat} {c : ClockChannel} (hr : s.transportRunning = true)
    (hc : s.clk[j]? = some c) :
    ∃ t, exec .clock s = .next t ∧ t.transportRunning = true ∧ t.clk[j]? = some (c.ticked s.now) :=
  ⟨_, exec_clock_running hr, hr, by rw [clock_getElem?, hc]; rfl⟩

/-- What `d` owes to `c`, from count 0, and the CLOCKs at `stamps`: the count modulo the threshold, and the pulse of the
last CLOCK whose number is a multiple of it (R176). -/
structure TickedTo (c : ClockChannel) (stamps : List Timestamp) (d : ClockChannel) : Prop where
  count : d.tickCount.toNat = stamps.length % c.threshold
  division : d.divisionIndex = c.divisionIndex
  quiet : stamps.length < c.threshold → d.pulseActive = c.pulseActive ∧ d.pulseStartTime = c.pulseStartTime
  fired : c.threshold ≤ stamps.length → d.pulseActive = true ∧
    stamps[stamps.length / c.threshold * c.threshold - 1]? = some d.pulseStartTime

theorem TickedTo.nil {c : ClockChannel} (h : c.tickCount = 0) : TickedTo c [] c where
  count := by simp [h]
  division := rfl
  quiet _ := ⟨rfl, rfl⟩
  fired hle := absurd (c.threshold_pos.trans_le hle) (lt_irrefl 0)

theorem mod_succ_of_eq {n m : Nat} (h : n % m + 1 = m) : (n + 1) % m = 0 ∧ (n + 1) / m * m = n + 1 := by
  have hdvd : m ∣ n + 1 := by
    have := Nat.div_add_mod n m
    exact ⟨n / m + 1, by rw [Nat.mul_add, Nat.mul_one]; omega⟩
  exact ⟨Nat.mod_eq_zero_of_dvd hdvd, Nat.div_mul_cancel hdvd⟩

theorem mod_succ_of_lt {n m : Nat} (h : n % m + 1 < m) : (n + 1) % m = n % m + 1 ∧ (n + 1) / m = n / m := by
  have hn := Nat.div_add_mod n m
  constructor
  · rw [← hn, Nat.add_assoc, Nat.mul_add_mod, Nat.mod_eq_of_lt (by omega), Nat.mul_add_mod, Nat.mod_mod]
  · rw [← hn, Nat.add_assoc, Nat.mul_add_div (by omega), Nat.div_eq_of_lt h, hn, Nat.add_zero]

/-- One more CLOCK: at the threshold the channel fires with its count back at 0, below it the count is one more. -/
theorem TickedTo.concat {c d : ClockChannel} {stamps : List Timestamp} (h : TickedTo c stamps d) (stamp : Timestamp) :
    TickedTo c (stamps ++ [stamp]) (d.ticked stamp) := by
  have hpos := c.threshold_pos
  have hbound := c.threshold_bounds
  have hthr : d.threshold = c.threshold := congrArg ticksPerPulse h.division
  have hmod := Nat.mod_lt stamps.length hpos
  have hsucc : (d.tickCount + 1).toNat = stamps.length % c.threshold + 1 := by
    rw [BitVec.toNat_add, h.count]
    simp
    omega
  rw [ClockChannel.ticked, hthr, hsucc]
  split
  case isTrue hle =>
    obtain ⟨hm, hd⟩ := mod_succ_of_eq (n := stamps.length) (m := c.threshold) (by omega)
    have hlen := Nat.mod_le stamps.length c.threshold
    refine ⟨?_, h.division, fun hlt => ?_, fun _ => ⟨rfl, ?_⟩⟩
    · rw [List.length_append, List.length_singleton, hm]
      rfl
    · rw [List.length_append, List.length_singleton] at hlt
      omega
    · rw [List.length_append, List.length_singleton, hd]
      simp
  case isFalse hlt =>
    obtain ⟨hm, hd⟩ := mod_succ_of_lt (n := stamps.length) (m := c.threshold) (by omega)
    refine ⟨?_, h.division, fun hlen => ?_, fun hlen => ?_⟩ <;>
      simp only [List.length_append, List.length_singleton] at *
    · rw [hm]
      exact hsucc
    · exact h.quiet (by omega)
    · have hle : c.threshold ≤ stamps.length := by
        by_contra hgt
        rw [Nat.mod_eq_of_lt (by omega)] at hlt
        omega
      obtain ⟨hactive, hstart⟩ := h.fired hle
      have hquot : 0 < stamps.length / c.threshold * c.threshold :=
        Nat.mul_pos (Nat.div_pos hle hpos) hpos
      have hback := Nat.div_mul_le_self stamps.length c.threshold
      rw [hd, List.getElem?_append_left (by omega)]
      exact ⟨hactive, hstart⟩

theorem clocksAt_concat (stamps : List Timestamp) (stamp : Timestamp) :
    clocksAt (stamps ++ [stamp]) = clocksAt stamps ++ [(stamp, .clock)] := List.map_append

/-- CLOCKs while running, whatever the timestamps, all complete (R176). -/
theorem execTimed_clocks_running (stamps : List Timestamp) {s : State} {j : Nat} {c : ClockChannel}
    (hr : s.transportRunning = true) (hc : s.clk[j]? = some c) (hzero : c.tickCount = 0) :
    ∃ t d, execTimed (clocksAt stamps) s = .next t ∧ t.transportRunning = true ∧ t.clk[j]? = some d ∧
      TickedTo c stamps d := by
  induction stamps using List.reverseRecOn with
  | nil => exact ⟨s, c, rfl, hr, hc, .nil hzero⟩
  | append_singleton stamps stamp ih =>
    obtain ⟨t, d, ht, htr, hd, hticked⟩ := ih
    obtain ⟨u, hu, hur, hud⟩ := exec_clock_ticked (s := { t with now := stamp }) htr hd
    refine ⟨u, d.ticked stamp, ?_, hur, hud, hticked.concat stamp⟩
    rw [clocksAt_concat, execTimed_append _ _ ht]
    exact execTimed_cons [] hu

/-- Settles O50: by induction over the CLOCKs, each extending what holds after those before it. -/
theorem channelFiresEveryThresholdTicks : Obligations.ChannelFiresEveryThresholdTicks := by
  unfold Obligations.ChannelFiresEveryThresholdTicks
  intro stamps s j c hr hc hzero
  obtain ⟨t, d, ht, -, hd, hcount, hdivision, hquiet, hfired⟩ := execTimed_clocks_running stamps hr hc hzero
  exact ⟨t, d, ht, hd, hcount, hdivision, hquiet, hfired⟩

/-! ## After SET_DIV -/

/-- Exactly a threshold of CLOCKs: the last one fires. -/
theorem TickedTo.of_length_eq {c d : ClockChannel} {stamps : List Timestamp} (h : TickedTo c stamps d)
    (hlen : stamps.length = c.threshold) :
    d.pulseActive = true ∧ stamps.getLast? = some d.pulseStartTime ∧ d.tickCount = 0 := by
  obtain ⟨hactive, hstart⟩ := h.fired hlen.ge
  have hindex : stamps.length / c.threshold * c.threshold - 1 = stamps.length - 1 := by
    rw [hlen, Nat.div_self c.threshold_pos, Nat.one_mul]
  refine ⟨hactive, ?_, BitVec.eq_of_toNat_eq ?_⟩
  · rw [List.getLast?_eq_getElem?, ← hindex]
    exact hstart
  · rw [h.count, hlen, Nat.mod_self]
    rfl

/-- An active pulse stays active through CLOCKs. -/
theorem TickedTo.pulseActive {c d : ClockChannel} {stamps : List Timestamp} (h : TickedTo c stamps d)
    (hactive : c.pulseActive = true) : d.pulseActive = true := by
  obtain hlt | hle := Nat.lt_or_ge stamps.length c.threshold
  · exact (h.quiet hlt).1.trans hactive
  · exact (h.fired hle).1

/-- A START fires the channel, and the CLOCKs after it count from there (R177, R182). -/
theorem execTimed_start_clocks (started : Timestamp) (stamps : List Timestamp) {s : State} {j : Nat}
    {c : ClockChannel} (hc : s.clk[j]? = some c) :
    ∃ t d, execTimed ((started, .start) :: clocksAt stamps) s = .next t ∧ t.clk[j]? = some d ∧
      TickedTo { c with tickCount := 0, pulseActive := true, pulseStartTime := started } stamps d := by
  have hstart := exec_start { s with now := started }
  have hfired := exec_fires (s := { s with now := started }) hc (.inl rfl) hstart
  obtain ⟨t, d, ht, -, hd, hticked⟩ :=
    execTimed_clocks_running stamps (s := State.startTransport { s with now := started }) rfl hfired rfl
  exact ⟨t, d, (execTimed_cons _ hstart).trans ht, hd, hticked⟩

/-- Settles O51: SET_DIV leaves count 0 under the new threshold, from which the CLOCKs count; while stopped it is START
that they count from. -/
theorem setDivRestartsTheTickCount : Obligations.SetDivRestartsTheTickCount := by
  unfold Obligations.SetDivRestartsTheTickCount
  intro stamps s j r c hc
  have hset := exec_setDiv r hc
  have hcfg := setClock_getElem?_self (c.configure r) hc
  refine ⟨fun hr => ?_, fun hr idle started => ?_⟩
  · obtain ⟨u, d, hu, -, hd, hticked⟩ :=
      execTimed_clocks_running stamps (s := s.setClock j.toNat (c.configure r)) hr hcfg rfl
    exact ⟨_, u, d, hset, hu, hd, hticked.quiet, hticked.of_length_eq⟩
  · obtain ⟨now, hidle⟩ := execTimed_clocks_stopped idle (s := s.setClock j.toNat (c.configure r)) hr
    obtain ⟨u, d, hu, hd, hticked⟩ := execTimed_start_clocks started stamps
      (s := { s.setClock j.toNat (c.configure r) with now := now }) hcfg
    exact ⟨_, u, d, hset, (execTimed_append _ _ hidle).trans hu, hd, hticked.pulseActive rfl,
      fun hlt => (hticked.quiet hlt).2, fun hlen => (hticked.of_length_eq hlen).2⟩

end Sys2Proof.Machine
end


section
/-! Pulses and time (42_clock_transport.md R190, R191; 60_exceptions.md R216; 70_reset_and_hazards.md R254). -/

namespace Sys2Proof.Machine

/-- One clock record after POLL (R190). -/
theorem poll_getElem? {s : State} {j : Nat} {c : ClockChannel} (hc : s.clk[j]? = some c) :
    (s.forEachClock fun c j => c.expire s.now j).clk[j]? =
      some (if c.pulseActive = true ∧ 10 < (s.now - c.pulseStartTime).toNat then
        { c with pulseActive := false } else c) := by
  rw [poll_clk, List.getElem?_map, hc]
  rfl

/-- A command other than CLOCK, START, CONTINUE and STOP keeps a channel's start time, and ends its pulse only as an
overdue POLL (R190, R191). -/
theorem exec_keeps_pulse {i : Instr} {s t : State} {j : Nat} {c : ClockChannel}
    (hi : i ≠ .clock ∧ i ≠ .start ∧ i ≠ .cont ∧ i ≠ .stop) (h : exec i s = .next t) (hc : s.clk[j]? = some c) :
    ∃ d, t.clk[j]? = some d ∧ d.pulseStartTime = c.pulseStartTime ∧
      (d.pulseActive = true ↔ c.pulseActive = true ∧ (i = .poll → (s.now - c.pulseStartTime).toNat < 11)) := by
  obtain ⟨hclock, hstart, hcont, hstop⟩ := hi
  by_cases hpoll : i = .poll
  · subst hpoll
    cases h
    refine ⟨_, poll_getElem? hc, ?_, ?_⟩
    · split <;> rfl
    · split
      case isTrue hexpired =>
        exact iff_of_false Bool.false_ne_true fun ⟨_, hlate⟩ => (hlate rfl).not_ge hexpired.2
      case isFalse hkept =>
        exact iff_self_and.mpr fun hactive _ => Nat.lt_of_not_le fun hlate => hkept ⟨hactive, hlate⟩
  · obtain ⟨hlt, -⟩ := List.getElem?_eq_some_iff.mp hc
    have hd := List.getElem?_eq_getElem (exec_clk_length h ▸ hlt)
    refine ⟨_, hd, ?_⟩
    obtain heq | ⟨hi, -⟩ | ⟨hi | hi, -⟩ | ⟨hi, -⟩ | ⟨hi, -⟩ | ⟨b, r, -, -, heq⟩ := exec_channel h hc hd
    · rw [heq]
      simp [hpoll]
    · exact absurd hi hclock
    · exact absurd hi hstart
    · exact absurd hi hcont
    · exact absurd hi hstop
    · exact absurd hi hpoll
    · rw [heq]
      simp [ClockChannel.configure, hpoll]

/-- Over a run of such commands the start time stays, and the pulse is active at the end exactly if it was at the start
and no POLL was overdue (R191). -/
theorem execTimed_keeps_pulse (cmds : List (Timestamp × Instr)) {s t : State} {j : Nat} {c : ClockChannel}
    (hcmds : ∀ x ∈ cmds, x.2 ≠ .clock ∧ x.2 ≠ .start ∧ x.2 ≠ .cont ∧ x.2 ≠ .stop)
    (h : execTimed cmds s = .next t) (hc : s.clk[j]? = some c) :
    ∃ d, t.clk[j]? = some d ∧ d.pulseStartTime = c.pulseStartTime ∧
      (d.pulseActive = true ↔ c.pulseActive = true ∧
        ∀ x ∈ cmds, x.2 = .poll → (x.1 - c.pulseStartTime).toNat < 11) := by
  induction cmds generalizing s c with
  | nil =>
    cases h
    exact ⟨c, hc, rfl, by simp⟩
  | cons x cmds ih =>
    obtain ⟨stamp, i⟩ := x
    rw [List.forall_mem_cons] at hcmds
    simp only [execTimed] at h
    split at h
    case h_1 u hu =>
      obtain ⟨d, hd, hdstart, hdactive⟩ := exec_keeps_pulse hcmds.1 hu hc
      obtain ⟨e, he, hestart, heactive⟩ := ih hcmds.2 h hd
      refine ⟨e, he, hestart.trans hdstart, ?_⟩
      rw [heactive, hdactive, hdstart, List.forall_mem_cons, and_assoc]
    case h_2 => cases h
    case h_3 => cases h

/-- Settles O52: by induction over the run, from what each command does to the pulse. -/
theorem pulseStaysHighUntilItExpires : Obligations.PulseStaysHighUntilItExpires := by
  unfold Obligations.PulseStaysHighUntilItExpires
  intro cmds s t j c hcmds h hc hactive
  obtain ⟨d, hd, hstart, hiff⟩ := execTimed_keeps_pulse cmds hcmds h hc
  exact ⟨d, hd, hstart, hiff.trans (and_iff_right hactive)⟩

/-- A step back by `b` ms reads as `2^32 - b` ms forwards (R254). -/
theorem elapsed_of_step_back (start : Timestamp) {b : Nat} (hpos : 0 < b) (hlt : b < 2 ^ 32) :
    (start - BitVec.ofNat 32 b - start).toNat = 2 ^ 32 - b := by
  have := start.isLt
  simp only [BitVec.toNat_sub, BitVec.toNat_ofNat]
  omega

/-- Settles O53: the elapsed time modulo 2^32 exceeds 10, so an active pulse is retracted. -/
theorem timeGoingBackRetractsAtOnce : Obligations.TimeGoingBackRetractsAtOnce := by
  unfold Obligations.TimeGoingBackRetractsAtOnce
  intro s j c b hc hpos hlt hnow
  refine ⟨_, _, exec_poll s, poll_getElem? hc, ?_⟩
  have helapsed : 10 < (s.now - c.pulseStartTime).toNat := by
    rw [hnow, elapsed_of_step_back _ hpos (by omega)]
    omega
  split
  case isTrue => rfl
  case isFalse hkept => exact Bool.eq_false_iff.mpr fun hactive => hkept ⟨hactive, helapsed⟩

/-! ## One timestamp -/

/-- After a STOP every pulse is inactive and every count 0 (R179). -/
theorem stop_all_low {s : State} {d : ClockChannel}
    (h : d ∈ ((s.setTransport false).forEachClock fun c j => c.halt j).clk) :
    d.pulseActive = false ∧ d.tickCount = 0 := by
  rw [stop_clk] at h
  obtain ⟨c, -, rfl⟩ := List.mem_map.mp h
  exact ⟨rfl, rfl⟩

/-- Settles O54: a pulse that fired now has no elapsed time for a POLL to find; a POLL moves no count; a CLOCK after a
STOP is ignored, and a STOP after a CLOCK undoes it. -/
theorem sameTimestampOrder : Obligations.SameTimestampOrder := by
  unfold Obligations.SameTimestampOrder
  intro s
  refine ⟨fun j c hc hr hthr => ⟨?_, ?_⟩, ?_, ?_⟩
  · have hclock := exec_clock_running hr
    have hfired := exec_fires hc (.inr (.inr ⟨rfl, hr, hthr⟩)) hclock
    refine ⟨_, _, (execTimed_cons _ hclock).trans (execTimed_cons [] (exec_poll _)), poll_getElem? hfired, ?_⟩
    simp
  · have hpolled := poll_getElem? hc
    have hclock := exec_clock_running (s := s.forEachClock fun c j => c.expire s.now j) hr
    refine ⟨_, _, (execTimed_cons _ (exec_poll s)).trans (execTimed_cons [] hclock),
      exec_fires hpolled (.inr (.inr ⟨rfl, hr, ?_⟩)) hclock, rfl⟩
    split <;> exact hthr
  · exact ⟨_, (execTimed_cons _ (exec_stop s)).trans (execTimed_cons [] (exec_clock_stopped rfl)),
      fun _ => stop_all_low⟩
  · obtain ⟨t, ht⟩ := exists_exec_eq_next (i := .clock) (s := s) rfl
    exact ⟨_, (execTimed_cons _ ht).trans (execTimed_cons [] (exec_stop _)), fun _ => stop_all_low⟩

end Sys2Proof.Machine
end


section
/-! The assembler (30_encoding.md R107, R109): what each mnemonic assembles to, and that every result is well formed. -/

namespace Sys2Proof.Machine

/-! ## The lines of three operands -/

/-- The instruction of a line of three operands, each in its range (R107). -/
def assembleChan (build : ChannelNibble → Data7 → Data7 → Instr) (c x y : Int) : Option (List Instr) := do
  return [build (← asmChannel c) (← asmData x) (← asmData y)]

/-- The three mnemonics of such lines (R107). -/
theorem assembleLine_chan :
    ∀ line ∈ [("NOTE_ON", Instr.noteOn), ("NOTE_OFF", Instr.noteOff), ("CC", Instr.controlChange)],
      ∀ (n : Nat) (c x y : Int), assembleLine n line.1 [c, x, y] = assembleChan line.2 c x y := by
  intro line hline
  simp only [List.mem_cons, List.not_mem_nil, or_false] at hline
  obtain rfl | rfl | rfl := hline
  · exact fun _ _ _ _ => rfl
  · exact fun _ _ _ _ => rfl
  · exact fun _ _ _ _ => rfl

theorem assembleChan_of_mem (build : ChannelNibble → Data7 → Data7 → Instr) {c x y : Int} (hc : 1 ≤ c ∧ c ≤ 16)
    (hx : 0 ≤ x ∧ x ≤ 127) (hy : 0 ≤ y ∧ y ≤ 127) :
    ∃ nibble d1 d2, assembleChan build c x y = some [build nibble d1 d2] ∧
      (nibble.toNat : Int) = c - 1 ∧ (d1.toNat : Int) = x ∧ (d2.toNat : Int) = y := by
  obtain ⟨nibble, hnibble, hcv⟩ := asmChannel_of_mem hc
  obtain ⟨d1, hd1, hxv⟩ := asmData_of_mem hx
  obtain ⟨d2, hd2, hyv⟩ := asmData_of_mem hy
  exact ⟨nibble, d1, d2, by rw [assembleChan, hnibble, hd1, hd2]; rfl, hcv, hxv, hyv⟩

theorem assembleChan_of_not_mem (build : ChannelNibble → Data7 → Data7 → Instr) {c x y : Int}
    (h : ¬ ((1 ≤ c ∧ c ≤ 16) ∧ (0 ≤ x ∧ x ≤ 127) ∧ (0 ≤ y ∧ y ≤ 127))) : assembleChan build c x y = none := by
  rw [assembleChan]
  by_cases hc : 1 ≤ c ∧ c ≤ 16
  · by_cases hx : 0 ≤ x ∧ x ≤ 127
    · simp [asmData_of_not_mem fun hy => h ⟨hc, hx, hy⟩]
    · simp [asmData_of_not_mem hx]
  · simp [asmChannel_of_not_mem hc]

/-! ## The configuration lines -/

theorem assembleLine_setDiv (n : Nat) (j r : Int) :
    assembleLine n "SET_DIV" [j, r] = do return [.setDiv (← asmClockChannel n j) (← asmRequested r)] := rfl

theorem assembleLine_getDiv (n : Nat) (j : Int) :
    assembleLine n "GET_DIV" [j] = do return [.getDiv (← asmClockChannel n j)] := rfl

theorem assembleLine_setDiv_of_mem {n : Nat} {j r : Int} (hn : n ≤ 256) (hj : 0 ≤ j ∧ j < n)
    (hr : -128 ≤ r ∧ r ≤ 127) :
    ∃ d1 d2, assembleLine n "SET_DIV" [j, r] = some [.setDiv d1 d2] ∧ (d1.toNat : Int) = j ∧ d2.toInt = r := by
  obtain ⟨d1, hd1, hjv⟩ := asmClockChannel_of_mem hn hj
  obtain ⟨d2, hd2, hrv⟩ := asmRequested_of_mem hr
  exact ⟨d1, d2, by rw [assembleLine_setDiv, hd1, hd2]; rfl, hjv, hrv⟩

theorem assembleLine_setDiv_of_not_mem {n : Nat} {j r : Int} (h : ¬ ((0 ≤ j ∧ j < n) ∧ (-128 ≤ r ∧ r ≤ 127))) :
    assembleLine n "SET_DIV" [j, r] = none := by
  rw [assembleLine_setDiv]
  by_cases hj : 0 ≤ j ∧ j < n
  · simp [asmRequested_of_not_mem fun hr => h ⟨hj, hr⟩]
  · simp [asmClockChannel_of_not_mem hj]

theorem assembleLine_getDiv_of_mem {n : Nat} {j : Int} (hn : n ≤ 256) (hj : 0 ≤ j ∧ j < n) :
    ∃ d1, assembleLine n "GET_DIV" [j] = some [.getDiv d1] ∧ (d1.toNat : Int) = j := by
  obtain ⟨d1, hd1, hjv⟩ := asmClockChannel_of_mem hn hj
  exact ⟨d1, by rw [assembleLine_getDiv, hd1]; rfl, hjv⟩

theorem assembleLine_getDiv_of_not_mem {n : Nat} {j : Int} (h : ¬ (0 ≤ j ∧ j < n)) :
    assembleLine n "GET_DIV" [j] = none := by
  rw [assembleLine_getDiv, asmClockChannel_of_not_mem h]
  rfl

/-! ## Well-formedness -/

/-- The clock channel of an assembled line exists (R96, R107). -/
theorem toNat_lt_of_asmClockChannel {n : Nat} {x : Int} {j : Byte} (h : asmClockChannel n x = some j) :
    j.toNat < n := by
  rw [asmClockChannel] at h
  split at h
  case isTrue hx =>
    cases h
    rw [BitVec.toNat_ofInt]
    omega
  case isFalse => cases h

theorem assembleLine_wf {n : Nat} {mnemonic : String} {operands : List Int} {is : List Instr}
    (h : assembleLine n mnemonic operands = some is) : ∀ i ∈ is, i.wf n = true := by
  unfold assembleLine at h
  split at h
  case h_1 | h_2 | h_3 =>
    simp only [Option.bind_eq_bind, Option.bind_eq_some_iff, Option.pure_def, Option.some.injEq] at h
    obtain ⟨c, -, x, -, y, -, rfl⟩ := h
    simp [Instr.wf]
  case h_9 =>
    simp only [Option.bind_eq_bind, Option.bind_eq_some_iff, Option.pure_def, Option.some.injEq] at h
    obtain ⟨j, hj, r, -, rfl⟩ := h
    simpa [Instr.wf] using toNat_lt_of_asmClockChannel hj
  case h_10 =>
    simp only [Option.bind_eq_bind, Option.bind_eq_some_iff, Option.pure_def, Option.some.injEq] at h
    obtain ⟨j, hj, rfl⟩ := h
    simpa [Instr.wf] using toNat_lt_of_asmClockChannel hj
  case h_11 =>
    split at h
    case isTrue =>
      cases h
      intro i hi
      rw [List.eq_of_mem_replicate hi]
      rfl
    case isFalse => cases h
  case h_13 =>
    simp only [Option.bind_eq_bind, Option.bind_eq_some_iff, Option.pure_def, Option.some.injEq] at h
    obtain ⟨c, -, x, -, rfl⟩ := h
    simp [Instr.wf]
  case h_14 => cases h
  all_goals
    cases h
    simp [Instr.wf]

/-- Settles O60: the operand readers answer exactly the operands in range, and every line is made of them. -/
theorem assemblerExpandsAndRejects : Obligations.AssemblerExpandsAndRejects := by
  unfold Obligations.AssemblerExpandsAndRejects
  refine ⟨fun _ _ => rfl, fun _ => rfl, fun _ _ _ => rfl, fun line hline n c x y => ?_,
    fun n j r hn => ⟨fun ⟨hj, hr⟩ => assembleLine_setDiv_of_mem (by omega) hj hr, assembleLine_setDiv_of_not_mem⟩,
    fun n j hn => ⟨assembleLine_getDiv_of_mem (by omega), assembleLine_getDiv_of_not_mem⟩,
    fun _ => ⟨rfl, rfl, rfl, rfl, rfl⟩, fun _ _ _ _ => assembleLine_wf⟩
  rw [assembleLine_chan line hline]
  exact ⟨fun ⟨hc, hx, hy⟩ => assembleChan_of_mem line.2 hc hx hy, assembleChan_of_not_mem line.2⟩

end Sys2Proof.Machine
end
